-- ==== Sys2Proof/Word.lean ====
section
/-! DEFINITION. The bit vectors of the LCD core: widths of 00_scope.md R8 and 20_memory.md R63. -/

namespace Sys2Proof

/-- A port value or a byte for the display (`PORT_W` = 8, R8). -/
abbrev Byte := BitVec 8

/-- Half a byte, what crosses DB4 to DB7 at once (00_scope.md section 6). -/
abbrev Nibble := BitVec 4

/-- A command word or a status bus (`CMD_W` = 32, R8, R80). -/
abbrev Word := BitVec 32

/-- The duration operand of DELAYUS and DELAYMS (`DUR_W` = 24, R8). -/
abbrev Duration := BitVec 24

/-- A countdown value of the timer (`TMR_W` = 64, R8). -/
abbrev Ticks := BitVec 64

end Sys2Proof
end

