-- ==== Sys2Proof/Syntax.lean ====
section
/-! DEFINITION. The instructions of LCDC-1: one constructor for each row of spec/opcode_table.json
(30_encoding.md R84 for the twelve commands, R88 for the two payload forms). -/

namespace Sys2Proof

/-- A decoded word. Operands are unsigned and unscaled (30_encoding.md R83). -/
inductive Instr where
  /-- INIT: the controller's initialization sequence (R160). -/
  | init
  /-- CLEAR: clear the display (R161). -/
  | clear
  /-- GOTO line, col: position the cursor (R162). LINE is one bit, COL is not masked yet. -/
  | goto (line : BitVec 1) (col : Byte)
  /-- PUTCHAR b: one character to the data register (R163). -/
  | putchar (b : Byte)
  /-- PUTSTR: the header of a string (R164). -/
  | putstr
  /-- WRCMD b: one byte to the command register (R165). -/
  | wrcmd (b : Byte)
  /-- WRBYTE b: one byte to the register RS selects (R143). -/
  | wrbyte (b : Byte)
  /-- SELCMD: select the command register (R152). -/
  | selcmd
  /-- SELDATA: select the data register (R153). -/
  | seldata
  /-- CLOCK: one enable pulse (R134). -/
  | clock
  /-- DELAYUS d: wait d microseconds (R117). -/
  | delayus (d : Duration)
  /-- DELAYMS d: wait d milliseconds (R118). -/
  | delayms (d : Duration)
  /-- A payload byte word of a string (R88, R164). -/
  | payloadByte (b : Byte)
  /-- The terminator word of a string (R88, R164). -/
  | payloadEnd
  deriving DecidableEq, Repr

end Sys2Proof
end

