-- ==== Sys2Proof/WellFormed.lean ====
section
/-! DEFINITION. The input mode of the engine (10_state.md R39) and which instruction is a word of which mode
(30_encoding.md R88, R89): the one well-formedness fact the operand types do not already carry. -/

namespace Sys2Proof

/-- MODE (R39): how the next accepted word is read. Its encoding is not visible. -/
inductive Mode where
  /-- Words are commands. -/
  | cmd
  /-- String mode: words are payload bytes to send. -/
  | str
  /-- Discard mode: words are payload of a rejected string. -/
  | discard
  deriving DecidableEq, Repr

/-- Format P (R82): the two payload forms, words of MODE = STR or DISCARD only. -/
def Instr.isPayload : Instr → Bool
  | .payloadByte _ => true
  | .payloadEnd => true
  | .init => false
  | .clear => false
  | .goto _ _ => false
  | .putchar _ => false
  | .putstr => false
  | .wrcmd _ => false
  | .wrbyte _ => false
  | .selcmd => false
  | .seldata => false
  | .clock => false
  | .delayus _ => false
  | .delayms _ => false

/-- The instruction is one a word of this mode can stand for (R88, R89: MODE alone tells a word's role).
The ranges of the operands are in the constructors' types, so no other check is needed. -/
def Instr.wellFormed (m : Mode) (i : Instr) : Bool :=
  match m with
  | .cmd => !i.isPayload
  | .str => i.isPayload
  | .discard => i.isPayload

end Sys2Proof
end

