-- ==== Sys2Proof/Decode.lean ====
section
/-! DEFINITION. The decoder of 30_encoding.md R85, total on every word and mode, rejecting by name, and after it
the encoder of the same formats (R82, R84, R90). -/

namespace Sys2Proof

/-- Why a word accepted in MODE = CMD is illegal (R86). -/
inductive IllegalReason where
  /-- OP is not one of the twelve values of R84. -/
  | undefinedOpcode
  /-- A reserved bit of the opcode's format is 1. -/
  | reservedBit
  deriving DecidableEq, Repr

/-- What the decoder answers: an instruction, or Illegal with its reason. -/
inductive Decoded where
  | instr (i : Instr)
  | illegal (why : IllegalReason)
  deriving DecidableEq, Repr

/-- OP = w[31:24] (R81). -/
def opField (w : Word) : BitVec 8 := w.extractLsb' 24 8

/-- The operand area w[23:0] (R81), which is DUR in format D (R82). -/
def durField (w : Word) : Duration := w.extractLsb' 0 24

/-- BYTE and COL = w[7:0] (R83). -/
def byteField (w : Word) : Byte := w.extractLsb' 0 8

/-- LINE = w[8] (R83). -/
def lineField (w : Word) : BitVec 1 := w.extractLsb' 8 1

/-- TERM = w[8] in format P (R83). -/
def termField (w : Word) : Bool := w.getLsbD 8

/-- "fmt N -> X": X when w[23:0] = 0 (R85). -/
def fmtN (w : Word) (i : Instr) : Decoded :=
  if w.extractLsb' 0 24 = 0#24 then .instr i else .illegal .reservedBit

/-- "fmt B -> X": X when w[23:8] = 0 (R85). -/
def fmtB (w : Word) (i : Instr) : Decoded :=
  if w.extractLsb' 8 16 = 0#16 then .instr i else .illegal .reservedBit

/-- "fmt G -> X": X when w[23:9] = 0 (R85). -/
def fmtG (w : Word) (i : Instr) : Decoded :=
  if w.extractLsb' 9 15 = 0#15 then .instr i else .illegal .reservedBit

/-- A word accepted in MODE = CMD (R84, R85). -/
def decodeCommand (w : Word) : Decoded :=
  match opField w with
  | 0x01#8 => fmtN w .init
  | 0x02#8 => fmtN w .clear
  | 0x03#8 => fmtG w (.goto (lineField w) (byteField w))
  | 0x04#8 => fmtB w (.putchar (byteField w))
  | 0x05#8 => fmtN w .putstr
  | 0x06#8 => fmtB w (.wrcmd (byteField w))
  | 0x10#8 => fmtB w (.wrbyte (byteField w))
  | 0x11#8 => fmtN w .selcmd
  | 0x12#8 => fmtN w .seldata
  | 0x13#8 => fmtN w .clock
  | 0x20#8 => .instr (.delayus (durField w))
  | 0x21#8 => .instr (.delayms (durField w))
  | _ => .illegal .undefinedOpcode

/-- A word accepted in MODE = STR or DISCARD: never illegal, bits 31:9 ignored (R85, R88). -/
def decodePayload (w : Word) : Instr :=
  if termField w then .payloadEnd else .payloadByte (byteField w)

/-- The decoder (R85): a total function of the word and MODE, and of nothing else (R89). -/
def decode (m : Mode) (w : Word) : Decoded :=
  match m with
  | .cmd => decodeCommand w
  | .str => .instr (decodePayload w)
  | .discard => .instr (decodePayload w)

/-- A command word from OP and its operand area (R81). -/
def mkWord (op : BitVec 8) (area : BitVec 24) : Word := op ++ area

/-- Format B (R82): reserved bits 0, BYTE in bits 7:0. -/
def areaB (b : Byte) : BitVec 24 := 0#16 ++ b

/-- Format G (R82): reserved bits 0, LINE in bit 8, COL in bits 7:0. -/
def areaG (line : BitVec 1) (col : Byte) : BitVec 24 := 0#15 ++ line ++ col

/-- The word of an instruction (R82, R84, R90); for a payload form its canonical word (R90, R252 (b)). -/
def encode : Instr → Word
  | .init => mkWord 0x01#8 0#24
  | .clear => mkWord 0x02#8 0#24
  | .goto line col => mkWord 0x03#8 (areaG line col)
  | .putchar b => mkWord 0x04#8 (areaB b)
  | .putstr => mkWord 0x05#8 0#24
  | .wrcmd b => mkWord 0x06#8 (areaB b)
  | .wrbyte b => mkWord 0x10#8 (areaB b)
  | .selcmd => mkWord 0x11#8 0#24
  | .seldata => mkWord 0x12#8 0#24
  | .clock => mkWord 0x13#8 0#24
  | .delayus d => mkWord 0x20#8 d
  | .delayms d => mkWord 0x21#8 d
  | .payloadByte b => mkWord 0x00#8 (areaB b)
  | .payloadEnd => 0x00000100#32

/-- The word that spec/opcode_table.json numbers as `nbits` bits `w`; the bits above `nbits` are 0.
A command is one 32-bit value, not a sequence of bytes, so no byte order applies (20_memory.md R62). -/
def tableWord (nbits w : Nat) : Word := BitVec.ofNat 32 (w % 2 ^ nbits)

/-- The mode in which a word of the opcode table is read: CMD where it is a command, STR where it is none
(the table's PAYLOAD rows say "STR or DISCARD"; OP 0x00 is no command, R86). -/
def tableMode (w : Word) : Mode :=
  match decode .cmd w with
  | .instr _ => .cmd
  | .illegal _ => .str

/-- The instruction the decoder reads from an opcode-table word, in the mode its row names. -/
def decodeTableWord (nbits w : Nat) : Option Instr :=
  match decode (tableMode (tableWord nbits w)) (tableWord nbits w) with
  | .instr i => some i
  | .illegal _ => none

end Sys2Proof
end

