-- ==== Sys2Proof/Config.lean ====
section
/-! DEFINITION. What the specification fixes for every realisation: the parameters of 00_scope.md R8 and
the port's line masks of 10_state.md R22. There is no free value: no rule leaves a result undefined. -/

namespace Sys2Proof.Config

/-- `TICKS_PER_US`: "any integer with 1 <= `TICKS_PER_US` < 2^30" (R8), both bounds in the type. -/
abbrev TickRate := { n : Nat // 1 ≤ n ∧ n < 2 ^ 30 }

/-- The rate a board supplies (R8), refused where it is outside R8's range. -/
def tickRate? (n : Nat) : Option TickRate :=
  if h : 1 ≤ n ∧ n < 2 ^ 30 then some ⟨n, h⟩ else none

/-- The default of `TICKS_PER_US`: "125 ticks per microsecond in the reference configuration" (R8). -/
def ticksPerUsDefault : TickRate := ⟨125, by decide⟩

/-- `PORT_RESET` (R8, R23). -/
def portReset : Byte := 0x00#8

/-- The data lines DB4 to DB7, port bits 0 to 3 (R22). -/
def maskDB : Byte := 0x0F#8

/-- The read/write line, port bit 4 (R22). -/
def maskRW : Byte := 0x10#8

/-- The register-select line, port bit 5 (R22). -/
def maskRS : Byte := 0x20#8

/-- The enable line, port bit 6 (R22). -/
def maskE : Byte := 0x40#8

/-- The unused/test line, port bit 7 (R22). -/
def maskTEST : Byte := 0x80#8

end Sys2Proof.Config
end

