-- ==== Sys2Proof/Machine/State.lean ====
section
/-! DEFINITION. The state of the machine: the core's registers (10_state.md R41, R42), the countdown timer
(R38), what the host has offered, and whose move comes next. Plain data throughout. -/

namespace Sys2Proof.Machine

open Sys2Proof.Config

/-- The lines SET and CLR can name (10_state.md R22): the four control lines of PORT. -/
inductive Line where
  /-- Read/write, port bit 4. -/
  | rw
  /-- Register select, port bit 5. -/
  | rs
  /-- Enable, port bit 6. -/
  | e
  /-- Unused/test, port bit 7. -/
  | test
  deriving DecidableEq, Repr

/-- A micro-operation, the unit of the sequencer (R36). -/
inductive MicroOp where
  /-- `SET(m)` (20_memory.md R56). -/
  | set (l : Line)
  /-- `CLR(m)` (R57). -/
  | clr (l : Line)
  /-- `NIB(n)` (R58). -/
  | nib (n : Nibble)
  /-- `WAIT(t)` (40_timed_delay.md R112). -/
  | wait (t : Ticks)
  /-- `MARK(s)`: INIT_DONE takes s (44_protocol_ops.md R160). -/
  | mark (done : Bool)
  deriving DecidableEq, Repr

/-- An event of the trace (00_scope.md R11). -/
inductive Event where
  /-- `W(v)`: the core wrote v to the port. -/
  | w (v : Byte)
  /-- `T(t)`: the core completed a countdown of t ticks; a lower bound on time and nothing more. -/
  | t (ticks : Ticks)
  deriving DecidableEq, Repr

/-- DL_STATE (R37). -/
inductive DelayState where
  | idle
  | armed
  deriving DecidableEq, Repr

/-- The kinds of error STATUS.LAST_ERR names (R33, 60_exceptions.md R200). -/
inductive ErrorKind where
  /-- Code 0: no error since reset. -/
  | none
  /-- Code 1: PeripheralInitFailure. -/
  | peripheralInitFailure
  /-- Code 2: PreconditionViolation. -/
  | preconditionViolation
  /-- Code 3: IllegalCommand. -/
  | illegalCommand
  deriving DecidableEq, Repr

/-- How many nibbles of a byte the controller holds (70_reset_and_hazards.md R253, 93 U10). The controller is
outside the core; only the falling edges of E presented to it are counted, and no rule of the core reads this. -/
inductive NibblePhase where
  /-- Unknown from a reset until INIT completes (93 U10). -/
  | unknown
  /-- An even number of nibbles since INIT: the next byte is framed as the core assumes. -/
  | aligned
  /-- An odd number: one nibble of a byte is held. -/
  | halfByte
  deriving DecidableEq, Repr

/-- The countdown timer, an agent outside the core (R38). -/
structure Timer where
  /-- TMR_COUNT. -/
  count : Ticks
  /-- TMR_RUN. -/
  run : Bool
  /-- TMR_EXP, what `tmr_expired` reads. -/
  expired : Bool
  deriving DecidableEq, Repr

/-- One move of one agent. `State.script` lists the moves to come; this is how one deterministic step covers
every interleaving of the core, the host and the timer (00_scope.md R7, 93 U2, U5). -/
inductive Move where
  /-- The core: one micro-operation, one poll of the timer, the acceptance of a word, or the sampling edge. -/
  | core
  /-- The timer: n ticks pass and the flag does not rise (40_timed_delay.md R113 (a)). -/
  | ticks (n : Nat)
  /-- The timer: the rest of the count passes, with any further time, and the flag rises (R113 (b)). -/
  | expire
  /-- The host: it offers one more command word (20_memory.md R51). -/
  | offer (w : Word)
  /-- The platform: one clk edge with `rst` = 1 (70_reset_and_hazards.md R240). -/
  | rst
  /-- The platform: it drives the level of `periph_ok` (R28). -/
  | periph (ok : Bool)
  /-- Another agent writes the port: refused (20_memory.md R70). -/
  | foreignPort (v : Byte)
  /-- Another agent drives the timer: refused (R70). -/
  | foreignTimer
  deriving DecidableEq, Repr

/-- Why the machine stops with a fault. -/
inductive Fault where
  /-- Raised by the scripted timer move `expire` while the timer is stopped: the environment breaks the contract of
  40_timed_delay.md R113 (d), which the spec assumes and does not check. Safe: the model stops where the spec has
  no such behaviour. No instruction raises it. -/
  | expiryWhileStopped
  deriving DecidableEq, Repr

/-- Why the machine refuses to go on. -/
inductive Refusal where
  /-- Raised by exec for an instruction without a meaning; no arm of this model raises it. Safe. -/
  | notModelled (mnemonic : String)
  /-- Raised by the scripted moves `foreignPort` and `foreignTimer`: "a model refuses it rather than give it a
  meaning" (20_memory.md R70, 93 U4). Safe. No instruction raises it. -/
  | secondWriter
  /-- Raised by the sequencer for a port or timer micro-operation while FAILED = 1: "what the core may not do is
  refused by a model" (70_reset_and_hazards.md R266). Safe, and no run reaches it. No instruction raises it. -/
  | driveWhileFailed
  /-- Raised by the sequencer for SET(M_RW) or SET(M_TEST): "drive RW or TEST to 1" is refused (R266). Safe, and
  no run reaches it. No instruction raises it. -/
  | drivesForbiddenLine
  deriving DecidableEq, Repr

/-- The state record of 10_state.md R42, the timer agent of R38, and the launch parameters and inputs of the
environment, all as plain data. -/
structure State where
  /-- PORT (R22, R23). -/
  port : Byte
  /-- STATUS.INIT_DONE (R27): false is Uninitialized, true is Ready. -/
  initDone : Bool
  /-- STATUS.FAILED (R28). -/
  failed : Bool
  /-- STATUS.ERR_PRECOND, sticky (R29). -/
  errPrecond : Bool
  /-- STATUS.ERR_ILLEGAL, sticky (R30). -/
  errIllegal : Bool
  /-- STATUS.LAST_ERR (R33). -/
  lastErr : ErrorKind
  /-- ERR_WORD (R25). -/
  errWord : Word
  /-- MODE (R39). -/
  mode : Mode
  /-- SEQ, the micro-operations still to perform, next one first (R36). -/
  seq : List MicroOp
  /-- DL_STATE (R37). -/
  dlState : DelayState
  /-- DL_TICKS (R37). -/
  dlTicks : Ticks
  /-- The trace since the last reset, oldest event first (00_scope.md R11). -/
  trace : List Event
  /-- The last clk edge had `rst` = 1, so the core's next edge samples `periph_ok` (70_reset_and_hazards.md R240). -/
  inReset : Bool
  /-- The countdown timer (R38). -/
  timer : Timer
  /-- The command words the host offers and the core has not accepted; the head is `cmd_data` (20_memory.md R51). -/
  offered : List Word
  /-- The level of the input `periph_ok` (00_scope.md R8). -/
  periphOk : Bool
  /-- The launch parameter `TICKS_PER_US` (R8). -/
  ticksPerUs : TickRate
  /-- The controller's nibble phase, the model's own mark (93 U10). -/
  phase : NibblePhase
  /-- The moves to come, next one first; where it is empty the default order of Machine/Fetch.lean applies. -/
  script : List Move
  deriving DecidableEq, Repr

/-- A launch (70_reset_and_hazards.md R265): the state right after a reset with these two parameters, at the
values of 10_state.md R41; TMR_COUNT, which R38 leaves unspecified, is 0 (DESIGN CHOICE, log entry 1; unsafe). -/
def State.launch (rate : TickRate) (periphOk : Bool) : State where
  port := portReset
  initDone := false
  failed := !periphOk
  errPrecond := false
  errIllegal := false
  lastErr := if periphOk then .none else .peripheralInitFailure
  errWord := 0x00000000#32
  mode := .cmd
  seq := []
  dlState := .idle
  dlTicks := 0#64
  trace := []
  inReset := false
  timer := { count := 0#64, run := false, expired := false }
  offered := []
  periphOk := periphOk
  ticksPerUs := rate
  phase := .unknown
  script := []

/-- The machine right after reset (R41), at the default `TICKS_PER_US` and with the peripherals up
(DESIGN CHOICE, log entry 2; unsafe: every statement about a launch is made for all parameters). -/
def State.reset : State := State.launch ticksPerUsDefault true

end Sys2Proof.Machine
end

