-- ==== Sys2Proof/Machine/Operands.lean ====
section
/-! DEFINITION. The operand forms: durations to ticks (40_timed_delay.md R111), a byte to its nibbles
(20_memory.md R62), and GOTO's line and column to a command byte (44_protocol_ops.md R162). -/

namespace Sys2Proof.Machine

open Sys2Proof.Config

/-- `US(d) = d * TICKS_PER_US`, computed exactly (R111) and then held as a `TMR_W`-bit count, which it fits. -/
def microseconds (rate : TickRate) (d : Nat) : Ticks := BitVec.ofNat 64 (d * rate.val)

/-- `MS(d) = d * 1000 * TICKS_PER_US` (R111). -/
def milliseconds (rate : TickRate) (d : Nat) : Ticks := BitVec.ofNat 64 (d * 1000 * rate.val)

/-- The high nibble v[7:4] (R62). -/
def highNibble (v : Byte) : Nibble := v.extractLsb' 4 4

/-- The low nibble v[3:0] (R62). -/
def lowNibble (v : Byte) : Nibble := v.extractLsb' 0 4

/-- GOTO's 6-bit mask on the column (R162). -/
def columnAddress (col : Byte) : Byte := col &&& 0x3F#8

/-- GOTO's command byte (R162): the line's base 0x80 or 0xC0 with the masked column. -/
def gotoByte (line : BitVec 1) (col : Byte) : Byte :=
  (if line = 0#1 then 0x80#8 else 0xC0#8) ||| columnAddress col

end Sys2Proof.Machine
end

