-- ==== Sys2Proof/Machine/Ops.lean ====
section
/-! DEFINITION. The named operations every meaning is made of: the port primitives (20_memory.md R54 to R58), the
timer's operations (R61, 40_timed_delay.md R112, R113), recording an error (60_exceptions.md R204) and reset
(70_reset_and_hazards.md R240). -/

namespace Sys2Proof.Machine

open Sys2Proof.Config

/-! ### The port -/

/-- The mask constant of a control line (10_state.md R22). -/
def Line.mask : Line → Byte
  | .rw => maskRW
  | .rs => maskRS
  | .e => maskE
  | .test => maskTEST

/-- SET may name this line: "the core uses it with m = M_E and m = M_RS only" (20_memory.md R56), and driving RW
or TEST to 1 is refused (70_reset_and_hazards.md R266). -/
def Line.settable : Line → Bool
  | .rs => true
  | .e => true
  | .rw => false
  | .test => false

/-- The level of a control line in a port value (R22). -/
def lineOf (l : Line) (v : Byte) : Bool :=
  match l with
  | .rw => v.getLsbD 4
  | .rs => v.getLsbD 5
  | .e => v.getLsbD 6
  | .test => v.getLsbD 7

/-- DATA, port bits 3:0 (R22). -/
def dataOf (v : Byte) : Nibble := v.extractLsb' 0 4

/-- A write that takes E from 1 to 0: the falling edge on which the controller latches a nibble
(20_memory.md R55, R66; 41_enable_clock.md R131). -/
def fallingEdge (before after : Byte) : Bool := lineOf .e before && !lineOf .e after

/-- The nibble phase after the controller latches one nibble (70_reset_and_hazards.md R253). -/
def NibblePhase.afterLatch : NibblePhase → NibblePhase
  | .unknown => .unknown
  | .aligned => .halfByte
  | .halfByte => .aligned

/-- `PortRead()` (R54). -/
def portRead (s : State) : Byte := s.port

/-- `PortWrite(v)` (R55): all 8 lines at once, and one event, even when v is the old value. -/
def portWrite (v : Byte) (s : State) : State :=
  { s with
    port := v
    trace := s.trace ++ [.w v]
    phase := if fallingEdge s.port v then s.phase.afterLatch else s.phase }

/-- The value SET(m) writes (R56). -/
def setValue (l : Line) (v : Byte) : Byte := v ||| l.mask

/-- The value CLR(m) writes (R57). -/
def clrValue (l : Line) (v : Byte) : Byte := v &&& ~~~l.mask

/-- The value NIB(n) writes (R58). -/
def nibValue (n : Nibble) (v : Byte) : Byte := (v &&& ~~~maskDB) ||| n.setWidth 8

/-- `SET(m)` (R56): one read, one write. -/
def setLine (l : Line) (s : State) : State := portWrite (setValue l (portRead s)) s

/-- `CLR(m)` (R57): one read, one write. -/
def clrLine (l : Line) (s : State) : State := portWrite (clrValue l (portRead s)) s

/-- `NIB(n)` (R58): one read, one write, never a write with the data bits cleared in between. -/
def presentNibble (n : Nibble) (s : State) : State := portWrite (nibValue n (portRead s)) s

/-! ### The timer and the timed delay machine -/

/-- `tmr_load(t)`: set the countdown value (20_memory.md R61). -/
def timerLoad (t : Ticks) (tm : Timer) : Timer := { tm with count := t }

/-- `tmr_start()`: start counting down; it clears any earlier expiry (40_timed_delay.md R113 (c)). -/
def timerStart (tm : Timer) : Timer := { tm with run := true, expired := false }

/-- `tmr_stop()`: stop the counter (R113 (d)); the flag keeps its level until the next start (log entry 8). -/
def timerStop (tm : Timer) : Timer := { tm with run := false }

/-- n ticks pass: a running timer counts down, and stays at 0 there (R113; log entry 8). -/
def timerTicks (n : Nat) (tm : Timer) : Timer :=
  if tm.run then { tm with count := BitVec.ofNat 64 (tm.count.toNat - n) } else tm

/-- The rest of the countdown passes, and any further time, and the flag rises (R113 (a), (b)). -/
def timerExpire (tm : Timer) : Timer := { tm with count := 0#64, expired := true }

/-- The start of `Wait(t)` (R112): DL_TICKS, DL_ARMED, `tmr_load(t)`, `tmr_start()`. -/
def armDelay (t : Ticks) (s : State) : State :=
  { s with dlTicks := t, dlState := .armed, timer := timerStart (timerLoad t s.timer) }

/-- The end of `Wait(t)` once `tmr_expired` = 1 (R112): `tmr_stop()`, DL_IDLE, and the event T(t). -/
def finishDelay (t : Ticks) (s : State) : State :=
  { s with timer := timerStop s.timer, dlState := .idle, trace := s.trace ++ [.t t] }

/-- `MARK(b)`: INIT_DONE takes b (44_protocol_ops.md R160). The controller's nibble phase is unknown while INIT
forces its reset and aligned once INIT is complete (70_reset_and_hazards.md R253: "The recovery is INIT"; 93 U10). -/
def markDone (b : Bool) (s : State) : State :=
  { s with initDone := b, phase := if b then .aligned else .unknown }

/-- The performed micro-operation leaves SEQ (10_state.md R36). -/
def popSeq (s : State) : State := { s with seq := s.seq.tail }

/-! ### Recording an error: the machine's only exception entry -/

/-- `raise IllegalCommand(w)` (60_exceptions.md R204). -/
def raiseIllegal (w : Word) (s : State) : State :=
  { s with errIllegal := true, lastErr := .illegalCommand, errWord := w }

/-- `raise PreconditionViolation(w)` (R204). -/
def raisePrecondition (w : Word) (s : State) : State :=
  { s with errPrecond := true, lastErr := .preconditionViolation, errWord := w }

/-! ### Reset -/

/-- A clk edge with `rst` = 1 (70_reset_and_hazards.md R240, R242): every piece of core state at its value of
10_state.md R41 with FAILED = 0 and LAST_ERR = 0, and the port at `PORT_RESET`. The timer is not stopped (R242);
the host's words and the inputs are not the core's. A reset begins a new trace (log entry 4). -/
def resetEdge (s : State) : State :=
  { s with
    port := portReset
    initDone := false
    failed := false
    errPrecond := false
    errIllegal := false
    lastErr := .none
    errWord := 0x00000000#32
    mode := .cmd
    seq := []
    dlState := .idle
    dlTicks := 0#64
    trace := []
    inReset := true
    phase := .unknown }

/-- The first edge with `rst` = 0 (R240): FAILED and LAST_ERR from `periph_ok`, sampled once (R28, R203). -/
def sampleEdge (s : State) : State :=
  { s with
    failed := !s.periphOk
    lastErr := if s.periphOk then .none else .peripheralInitFailure
    inReset := false }

end Sys2Proof.Machine
end

