-- ==== Sys2Proof/Machine/Procedures.lean ====
section
/-! DEFINITION. The procedures of the four components, each the list of micro-operations it appends to SEQ
(10_state.md R36; the call hierarchy is 00_scope.md R2). -/

namespace Sys2Proof.Machine

open Sys2Proof.Config

/-- `Clock()` (41_enable_clock.md R130); no wait precedes the assertion of E (R132). -/
def clockOps (rate : TickRate) : List MicroOp :=
  [.set .e, .wait (microseconds rate 1), .clr .e, .wait (microseconds rate 1)]

/-- One nibble of a transfer: present it, latch it, let it settle (42_nibble_transfer.md R140). -/
def nibbleOps (rate : TickRate) (n : Nibble) : List MicroOp :=
  [.nib n] ++ clockOps rate ++ [.wait (microseconds rate 100)]

/-- `WriteByte(v)` (R140): the high nibble before the low one (R141). -/
def writeByteOps (rate : TickRate) (v : Byte) : List MicroOp :=
  nibbleOps rate (highNibble v) ++ nibbleOps rate (lowNibble v)

/-- `SelectCmd()` (43_register_select.md R150). -/
def selectCmdOps (rate : TickRate) : List MicroOp := [.clr .rs, .wait (microseconds rate 1)]

/-- `SelectData()` (R151). -/
def selectDataOps (rate : TickRate) : List MicroOp := [.set .rs, .wait (microseconds rate 1)]

/-- `Clear()` (44_protocol_ops.md R161). -/
def clearOps (rate : TickRate) : List MicroOp :=
  selectCmdOps rate ++ writeByteOps rate 0x01#8 ++ [.wait (milliseconds rate 2)]

/-- `Init()` (R160), steps 1 to 8 between its two marks. -/
def initOps (rate : TickRate) : List MicroOp :=
  [.mark false, .clr .rw, .clr .rs, .wait (milliseconds rate 15)]
    ++ [.nib 0x2#4] ++ clockOps rate ++ clockOps rate ++ clockOps rate
    ++ [.wait (milliseconds rate 15)]
    ++ writeByteOps rate 0x28#8 ++ writeByteOps rate 0x0C#8 ++ writeByteOps rate 0x06#8
    ++ clearOps rate ++ [.mark true]

end Sys2Proof.Machine
end

