-- ==== Sys2Proof/Machine/Accept.lean ====
section
/-! DEFINITION. The acceptance of a word (44_protocol_ops.md R170): the order of checks, the modes a string
changes, and what a payload word does. The meanings of all instructions are made of these. -/

namespace Sys2Proof.Machine

/-- The precondition classes (44_protocol_ops.md R171, 30_encoding.md R84): false for INIT, DELAYUS and DELAYMS,
true for every other command. A payload word is never checked (60_exceptions.md R206). -/
def needsReady : Instr → Bool
  | .init => false
  | .clear => true
  | .goto _ _ => true
  | .putchar _ => true
  | .putstr => true
  | .wrcmd _ => true
  | .wrbyte _ => true
  | .selcmd => true
  | .seldata => true
  | .clock => true
  | .delayus _ => false
  | .delayms _ => false
  | .payloadByte _ => false
  | .payloadEnd => false

/-- A payload word that carries byte b (R170, R173): sent in MODE = STR, without effect in MODE = DISCARD. In
MODE = CMD the canonical payload word w is an illegal command, its OP being 0x00 (R252 (b)). -/
def acceptByte (w : Word) (b : Byte) (s : State) : State :=
  match s.mode with
  | .str => { s with seq := writeByteOps s.ticksPerUs b }
  | .discard => s
  | .cmd => raiseIllegal w s

/-- A terminator word (R170, R173): no micro-operation, MODE <- CMD. In MODE = CMD it is an illegal command. -/
def acceptEnd (w : Word) (s : State) : State :=
  match s.mode with
  | .str => { s with mode := .cmd }
  | .discard => { s with mode := .cmd }
  | .cmd => raiseIllegal w s

/-- The order of checks on a legal command word in MODE = CMD (R170, 60_exceptions.md R206): silent discard when
FAILED, then PreconditionViolation, else SEQ takes the command's micro-operations. `rejected` and `accepted` are
the MODE after a discard or rejection and after acceptance: only PUTSTR changes it (R173, R164). -/
def checkCommand (i : Instr) (ops : List MicroOp) (rejected accepted : Mode) (s : State) : State :=
  if s.failed then { s with mode := rejected }
  else if needsReady i && !s.initDone then raisePrecondition (encode i) { s with mode := rejected }
  else { s with seq := ops, mode := accepted }

/-- A command's word accepted in MODE = STR or DISCARD is a payload word all the same (30_encoding.md R88), and the
terminator when its bit 8 is 1 (70_reset_and_hazards.md R252 (a)). The decoder never gives this case to a command's
meaning; it is here so that a meaning is right in every mode. -/
def acceptAsPayload (w : Word) (s : State) : State :=
  if termField w then acceptEnd w s else acceptByte w (byteField w) s

/-- The meaning of a command word, in every mode. -/
def acceptCommand (i : Instr) (ops : List MicroOp) (rejected accepted : Mode) (s : State) :
    Host.Outcome State Fault Refusal :=
  match s.mode with
  | .cmd => .next (checkCommand i ops rejected accepted s)
  | .str => .next (acceptAsPayload (encode i) s)
  | .discard => .next (acceptAsPayload (encode i) s)

end Sys2Proof.Machine
end

