-- ==== Sys2Proof/Machine/Delay.lean ====
section
/-! DEFINITION. timed_delay_state_machine: the host commands DELAYUS and DELAYMS (40_timed_delay.md). -/

namespace Sys2Proof.Machine

/-- DELAYUS d (R117): SEQ <- [WAIT(US(d))]. -/
def execDelayus (d : Duration) (s : State) : Host.Outcome State Fault Refusal :=
  acceptCommand (.delayus d) [.wait (microseconds s.ticksPerUs d.toNat)] .cmd .cmd s

/-- DELAYMS d (R118): SEQ <- [WAIT(MS(d))]. -/
def execDelayms (d : Duration) (s : State) : Host.Outcome State Fault Refusal :=
  acceptCommand (.delayms d) [.wait (milliseconds s.ticksPerUs d.toNat)] .cmd .cmd s

end Sys2Proof.Machine
end

