-- ==== Sys2Proof/Machine/EnableClock.lean ====
section
/-! DEFINITION. enable_clock_pulse_generator: the host command CLOCK (41_enable_clock.md). -/

namespace Sys2Proof.Machine

/-- CLOCK (R134): SEQ <- Clock(). -/
def execClock (s : State) : Host.Outcome State Fault Refusal :=
  acceptCommand .clock (clockOps s.ticksPerUs) .cmd .cmd s

end Sys2Proof.Machine
end

