-- ==== Sys2Proof/Machine/NibbleTransfer.lean ====
section
/-! DEFINITION. nibble_transfer_controller: the host command WRBYTE (42_nibble_transfer.md). -/

namespace Sys2Proof.Machine

/-- WRBYTE b (R143): SEQ <- WriteByte(b), to whichever register RS selects. -/
def execWrbyte (b : Byte) (s : State) : Host.Outcome State Fault Refusal :=
  acceptCommand (.wrbyte b) (writeByteOps s.ticksPerUs b) .cmd .cmd s

end Sys2Proof.Machine
end

