-- ==== Sys2Proof/Machine/Protocol.lean ====
section
/-! DEFINITION. LCD_protocol_engine: INIT, CLEAR, GOTO, PUTCHAR, PUTSTR with its payload, WRCMD
(44_protocol_ops.md; the micro-operations of each are R172). -/

namespace Sys2Proof.Machine

/-- INIT (R160): SEQ <- Init(), whatever INIT_DONE is. -/
def execInit (s : State) : Host.Outcome State Fault Refusal :=
  acceptCommand .init (initOps s.ticksPerUs) .cmd .cmd s

/-- CLEAR (R161): SEQ <- Clear(). -/
def execClear (s : State) : Host.Outcome State Fault Refusal :=
  acceptCommand .clear (clearOps s.ticksPerUs) .cmd .cmd s

/-- GOTO line, col (R162): SEQ <- SelectCmd() ++ WriteByte(command byte). -/
def execGoto (line : BitVec 1) (col : Byte) (s : State) : Host.Outcome State Fault Refusal :=
  acceptCommand (.goto line col)
    (selectCmdOps s.ticksPerUs ++ writeByteOps s.ticksPerUs (gotoByte line col)) .cmd .cmd s

/-- PUTCHAR b (R163): SEQ <- SelectData() ++ WriteByte(b). -/
def execPutchar (b : Byte) (s : State) : Host.Outcome State Fault Refusal :=
  acceptCommand (.putchar b) (selectDataOps s.ticksPerUs ++ writeByteOps s.ticksPerUs b) .cmd .cmd s

/-- PUTSTR (R164): SEQ <- SelectData(), MODE <- STR; discarded or rejected, MODE <- DISCARD (R173). -/
def execPutstr (s : State) : Host.Outcome State Fault Refusal :=
  acceptCommand .putstr (selectDataOps s.ticksPerUs) .discard .str s

/-- WRCMD b (R165): SEQ <- SelectCmd() ++ WriteByte(b), with no wait beyond the transfer's own (R254). -/
def execWrcmd (b : Byte) (s : State) : Host.Outcome State Fault Refusal :=
  acceptCommand (.wrcmd b) (selectCmdOps s.ticksPerUs ++ writeByteOps s.ticksPerUs b) .cmd .cmd s

/-- A payload byte word (R164, R173): in MODE = STR, SEQ <- WriteByte(b). -/
def execPayloadByte (b : Byte) (s : State) : Host.Outcome State Fault Refusal :=
  .next (acceptByte (encode (.payloadByte b)) b s)

/-- The terminator word (R164, R173): MODE <- CMD. -/
def execPayloadEnd (s : State) : Host.Outcome State Fault Refusal :=
  .next (acceptEnd (encode .payloadEnd) s)

end Sys2Proof.Machine
end

