-- ==== Sys2Proof/Machine/RegisterSelect.lean ====
section
/-! DEFINITION. Register-select control: the host commands SELCMD and SELDATA (43_register_select.md). -/

namespace Sys2Proof.Machine

/-- SELCMD (R152): SEQ <- SelectCmd(). -/
def execSelcmd (s : State) : Host.Outcome State Fault Refusal :=
  acceptCommand .selcmd (selectCmdOps s.ticksPerUs) .cmd .cmd s

/-- SELDATA (R153): SEQ <- SelectData(). -/
def execSeldata (s : State) : Host.Outcome State Fault Refusal :=
  acceptCommand .seldata (selectDataOps s.ticksPerUs) .cmd .cmd s

end Sys2Proof.Machine
end

