-- ==== Sys2Proof/Machine/Dispatch.lean ====
section
/-! DEFINITION. The dispatch: one arm for each constructor of Instr, each one call of its meaning. -/

namespace Sys2Proof.Machine

open Host

def exec (i : Instr) (s : State) : Host.Outcome State Fault Refusal :=
  match i with
  | .init => Sys2Proof.Machine.execInit s
  | .clear => Sys2Proof.Machine.execClear s
  | .goto line col => Sys2Proof.Machine.execGoto line col s
  | .putchar b => Sys2Proof.Machine.execPutchar b s
  | .putstr => Sys2Proof.Machine.execPutstr s
  | .wrcmd b => Sys2Proof.Machine.execWrcmd b s
  | .wrbyte b => Sys2Proof.Machine.execWrbyte b s
  | .selcmd => Sys2Proof.Machine.execSelcmd s
  | .seldata => Sys2Proof.Machine.execSeldata s
  | .clock => Sys2Proof.Machine.execClock s
  | .delayus d => Sys2Proof.Machine.execDelayus d s
  | .delayms d => Sys2Proof.Machine.execDelayms d s
  | .payloadByte b => Sys2Proof.Machine.execPayloadByte b s
  | .payloadEnd => Sys2Proof.Machine.execPayloadEnd s

end Sys2Proof.Machine
end

