-- ==== Sys2Proof/Machine/Sequencer.lean ====
section
/-! DEFINITION. The sequencer: performing the head of SEQ (10_state.md R36), and what 70_reset_and_hazards.md R266
refuses. -/

namespace Sys2Proof.Machine

/-- One core move on `WAIT(t)` at the head of SEQ (40_timed_delay.md R112): arm the timer; then, at each poll, hold
while `tmr_expired` = 0, and finish when it is 1. -/
def waitStep (t : Ticks) (s : State) : State :=
  match s.dlState with
  | .idle => armDelay t s
  | .armed => if s.timer.expired then popSeq (finishDelay t s) else s

/-- One core move on the head of SEQ. A port or timer micro-operation while FAILED = 1, and SET on RW or TEST, are
what the core may not do (70_reset_and_hazards.md R266). -/
def microStep (op : MicroOp) (s : State) : Host.Outcome State Fault Refusal :=
  match op with
  | .set l =>
    if s.failed then .refused .driveWhileFailed
    else if l.settable then .next (popSeq (setLine l s))
    else .refused .drivesForbiddenLine
  | .clr l => if s.failed then .refused .driveWhileFailed else .next (popSeq (clrLine l s))
  | .nib n => if s.failed then .refused .driveWhileFailed else .next (popSeq (presentNibble n s))
  | .wait t => if s.failed then .refused .driveWhileFailed else .next (waitStep t s)
  | .mark b => .next (popSeq (markDone b s))

/-- The core polls a running countdown that has not expired: WAIT is at the head of SEQ and `tmr_expired` = 0. -/
def awaitsTimer (s : State) : Bool :=
  match s.seq with
  | .wait _ :: _ => s.dlState == .armed && s.timer.run && !s.timer.expired
  | _ => false

end Sys2Proof.Machine
end

