-- ==== Sys2Proof/Machine/Fetch.lean ====
section
/-! DEFINITION. Taking the next word from the stream (20_memory.md R51) and the moves of the three agents
(00_scope.md R7). -/

namespace Sys2Proof.Machine

/-- An accepted word is handled once (44_protocol_ops.md R170): decoded in MODE and run, or rejected as illegal. -/
def acceptWord (w : Word) (s : State) : Host.Outcome State Fault Refusal :=
  match decode s.mode w with
  | .instr i => exec i s
  | .illegal _ => .next (raiseIllegal w s)

/-- The core's own move: the sampling edge after reset (70_reset_and_hazards.md R240), else the head of SEQ
(10_state.md R36), else the word the host presents (20_memory.md R51), else idle (60_exceptions.md R229). -/
def coreMove (s : State) : Host.Outcome State Fault Refusal :=
  if s.inReset then .next (sampleEdge s)
  else
    match s.seq with
    | op :: _ => microStep op s
    | [] =>
      match s.offered with
      | w :: rest => acceptWord w { s with offered := rest }
      | [] => .next s

/-- One move of one agent. -/
def perform (m : Move) (s : State) : Host.Outcome State Fault Refusal :=
  match m with
  | .core => coreMove s
  | .ticks n => .next { s with timer := timerTicks n s.timer }
  | .expire =>
    if s.timer.run then .next { s with timer := timerExpire s.timer } else .fault .expiryWhileStopped
  | .offer w => .next { s with offered := s.offered ++ [w] }
  | .rst => .next (resetEdge s)
  | .periph ok => .next { s with periphOk := ok }
  | .foreignPort _ => .refused .secondWriter
  | .foreignTimer => .refused .secondWriter

/-- Whose move it is: the script's next, and, where the script is empty, the timer's while the core polls a running
countdown (expiry in finite time is the fairness premise of 60_exceptions.md R230), else the core's. -/
def nextMove (s : State) : Move :=
  match s.script with
  | m :: _ => m
  | [] => if awaitsTimer s then .expire else .core

/-- The state with the scripted move taken. -/
def takeMove (s : State) : State := { s with script := s.script.tail }

/-- The state whose very next step accepts word w: out of reset, SEQ empty, w presented, the core's move, and MODE
the one in which the opcode table reads w. -/
def presentWord (w : Word) (s : State) : State :=
  { s with
    inReset := false
    seq := []
    dlState := .idle
    mode := tableMode w
    offered := w :: s.offered
    script := .core :: s.script }

end Sys2Proof.Machine
end

