-- ==== Sys2Proof/Machine/Assembler.lean ====
section
/-! DEFINITION. The assembler syntax of LCDC-1 (30_encoding.md R90) and its one pseudo-instruction (R91): a line
to the words it stands for. Operands are the numbers a programmer writes; one outside its range is an assembly
error, never truncated (R90). -/

namespace Sys2Proof

/-- One line of LCDC-1 assembly (R90, R91). -/
inductive AsmLine where
  | init
  | clear
  | goto (line col : Nat)
  | putchar (b : Nat)
  | putstr
  /-- `CHR b`: a payload byte word. -/
  | chr (b : Nat)
  /-- `END`: the terminator word. -/
  | endStr
  | wrcmd (b : Nat)
  | wrbyte (b : Nat)
  | selcmd
  | seldata
  | clock
  | delayus (d : Nat)
  | delayms (d : Nat)
  /-- `.word n`: a raw word. -/
  | word (n : Nat)
  /-- `PUTS "text"` (R91), the text as its 8-bit codes. -/
  | puts (text : List Byte)
  deriving DecidableEq, Repr

/-- A one-word line whose operand b must be an 8-bit value (R90). -/
def asmByte (i : Byte → Instr) (b : Nat) : Option (List Word) :=
  if b < 256 then some [encode (i (BitVec.ofNat 8 b))] else none

/-- A one-word line whose operand d must be a 24-bit duration (R90). -/
def asmDuration (i : Duration → Instr) (d : Nat) : Option (List Word) :=
  if d < 2 ^ 24 then some [encode (i (BitVec.ofNat 24 d))] else none

/-- The words of a line, or none where an operand is outside its range (R90, R91). -/
def assemble : AsmLine → Option (List Word)
  | .init => some [encode .init]
  | .clear => some [encode .clear]
  | .goto line col =>
    if line < 2 ∧ col < 256 then some [encode (.goto (BitVec.ofNat 1 line) (BitVec.ofNat 8 col))] else none
  | .putchar b => asmByte .putchar b
  | .putstr => some [encode .putstr]
  | .chr b => asmByte .payloadByte b
  | .endStr => some [encode .payloadEnd]
  | .wrcmd b => asmByte .wrcmd b
  | .wrbyte b => asmByte .wrbyte b
  | .selcmd => some [encode .selcmd]
  | .seldata => some [encode .seldata]
  | .clock => some [encode .clock]
  | .delayus d => asmDuration .delayus d
  | .delayms d => asmDuration .delayms d
  | .word n => if n < 2 ^ 32 then some [BitVec.ofNat 32 n] else none
  | .puts text =>
    some (encode .putstr :: (text.map (fun c => encode (.payloadByte c)) ++ [encode .payloadEnd]))

end Sys2Proof
end

