-- ==== Sys2Proof/Machine/Flags.lean ====
section
/-! DEFINITION. What the host sees: the STATUS word (10_state.md R24 to R35), ERR_WORD and `cmd_ready`
(20_memory.md R51, R52). Every one is a function of State, and reading it changes nothing. -/

namespace Sys2Proof.Machine

/-- STATUS.BUSY (R26): SEQ is not empty. -/
def busy (s : State) : Bool := !s.seq.isEmpty

/-- STATUS.STR_MODE (R31, R42). -/
def strMode (s : State) : Bool := s.mode == .str

/-- STATUS.STR_DISCARD (R32, R42). -/
def strDiscard (s : State) : Bool := s.mode == .discard

/-- The code of an error kind in STATUS.LAST_ERR (R33, 60_exceptions.md R200). -/
def ErrorKind.code : ErrorKind → BitVec 2
  | .none => 0#2
  | .peripheralInitFailure => 1#2
  | .preconditionViolation => 2#2
  | .illegalCommand => 3#2

/-- STATUS (R24), most significant field first; bits 31:10 and bit 7 are reserved and read 0 (R35). -/
def status (s : State) : Word :=
  0#22 ++ s.lastErr.code ++ 0#1 ++ BitVec.ofBool (strDiscard s) ++ BitVec.ofBool (strMode s)
    ++ BitVec.ofBool s.errIllegal ++ BitVec.ofBool s.errPrecond ++ BitVec.ofBool s.failed
    ++ BitVec.ofBool s.initDone ++ BitVec.ofBool (busy s)

/-- The `err_word` bus (20_memory.md R52). -/
def errWordOut (s : State) : Word := s.errWord

/-- `cmd_ready` (R51): out of reset and BUSY = 0. -/
def cmdReady (s : State) : Bool := !s.inReset && !busy s

/-- `cmd_valid` (R51): the host presents a word. -/
def cmdValid (s : State) : Bool := !s.offered.isEmpty

end Sys2Proof.Machine
end

