-- ==== Sys2Proof/Safety.lean ====
section
/-! DEFINITION. The terms the claims use: the spec's own pseudocode as reference functions (44_protocol_ops.md R170,
R172; 10_state.md R36), what a trace shows (00_scope.md R11, 41_enable_clock.md R131), and what counts as a safe state. -/

namespace Sys2Proof.Machine

open Sys2Proof.Config

/-! ### What SEQ still promises -/

/-- The port after one micro-operation (10_state.md R36). -/
def opPort : MicroOp → Byte → Byte
  | .set l, p => setValue l p
  | .clr l, p => clrValue l p
  | .nib n, p => nibValue n p
  | .wait _, p => p
  | .mark _, p => p

/-- The events of one micro-operation (R36; 20_memory.md R55, 40_timed_delay.md R112). -/
def opEvents : MicroOp → Byte → List Event
  | .set l, p => [.w (setValue l p)]
  | .clr l, p => [.w (clrValue l p)]
  | .nib n, p => [.w (nibValue n p)]
  | .wait t, _ => [.t t]
  | .mark _, _ => []

/-- The port once every micro-operation of the list is done. -/
def promisedPort : List MicroOp → Byte → Byte
  | [], p => p
  | op :: ops, p => promisedPort ops (opPort op p)

/-- The events the list of micro-operations stands for, in order, from port p. -/
def promisedEvents : List MicroOp → Byte → List Event
  | [], _ => []
  | op :: ops, p => opEvents op p ++ promisedEvents ops (opPort op p)

/-- The trace so far and the events SEQ still has to make. -/
def promisedTrace (s : State) : List Event := s.trace ++ promisedEvents s.seq s.port

/-! ### What a trace shows -/

/-- The nibbles the controller latches in a list of events, from port p: at each falling edge of E, the register
RS selects (true: data) and DATA (41_enable_clock.md R131). -/
def latches : Byte → List Event → List (Bool × Nibble)
  | _, [] => []
  | p, .t _ :: es => latches p es
  | p, .w v :: es =>
    if fallingEdge p v then (lineOf .rs v, dataOf v) :: latches v es else latches v es

/-- The number of `W` events. -/
def writesIn : List Event → Nat
  | [] => 0
  | .w _ :: es => writesIn es + 1
  | .t _ :: es => writesIn es

/-- The sum of the lower bounds the `T` events give, in ticks (00_scope.md R11). -/
def ticksIn : List Event → Nat
  | [] => 0
  | .w _ :: es => ticksIn es
  | .t t :: es => ticksIn es + t.toNat

/-- The trace of one `WriteByte(v)` from port p with E = 0, word for word as 42_nibble_transfer.md R142 gives it. -/
def writeByteTrace (rate : TickRate) (p v : Byte) : List Event :=
  let q := p &&& 0xF0#8
  let h := (v.extractLsb' 4 4).setWidth 8
  let l := (v.extractLsb' 0 4).setWidth 8
  let u1 := microseconds rate 1
  let u100 := microseconds rate 100
  [.w (q ||| h), .w (q ||| h ||| 0x40#8), .t u1, .w (q ||| h), .t u1, .t u100,
   .w (q ||| l), .w (q ||| l ||| 0x40#8), .t u1, .w (q ||| l), .t u1, .t u100]

/-- One enable pulse from port p, as 41_enable_clock.md R133 gives it. -/
def clockTrace (rate : TickRate) (p : Byte) : List Event :=
  [.w (p ||| 0x40#8), .t (microseconds rate 1), .w (p &&& 0xBF#8), .t (microseconds rate 1)]

/-- The table of 44_protocol_ops.md R174: `W` events, pulses, minimum duration in microseconds. -/
def commandCost : Instr → Nat × Nat × Nat
  | .init => (34, 11, 32823)
  | .clear => (7, 2, 2205)
  | .goto _ _ => (7, 2, 205)
  | .putchar _ => (7, 2, 205)
  | .putstr => (1, 0, 1)
  | .wrcmd _ => (7, 2, 205)
  | .wrbyte _ => (6, 2, 204)
  | .selcmd => (1, 0, 1)
  | .seldata => (1, 0, 1)
  | .clock => (2, 1, 2)
  | .delayus d => (0, 0, d.toNat)
  | .delayms d => (0, 0, 1000 * d.toNat)
  | .payloadByte _ => (6, 2, 204)
  | .payloadEnd => (0, 0, 0)

/-! ### The spec's reference functions -/

/-- `expand(c)` (44_protocol_ops.md R172), and what a payload byte word of a string stands for (R164). -/
def expand (rate : TickRate) : Instr → List MicroOp
  | .init => initOps rate
  | .clear => clearOps rate
  | .goto l c => selectCmdOps rate ++ writeByteOps rate ((if l = 0#1 then 0x80#8 else 0xC0#8) ||| (c &&& 0x3F#8))
  | .putchar b => selectDataOps rate ++ writeByteOps rate b
  | .putstr => selectDataOps rate
  | .wrcmd b => selectCmdOps rate ++ writeByteOps rate b
  | .wrbyte b => writeByteOps rate b
  | .selcmd => selectCmdOps rate
  | .seldata => selectDataOps rate
  | .clock => clockOps rate
  | .delayus d => [.wait (microseconds rate d.toNat)]
  | .delayms d => [.wait (milliseconds rate d.toNat)]
  | .payloadByte b => writeByteOps rate b
  | .payloadEnd => []

/-- `accept(w)` (R170), line by line. -/
def acceptSpec (w : Word) (s : State) : State :=
  if s.mode = .str then
    if w.getLsbD 8 then { s with mode := .cmd }
    else { s with seq := writeByteOps s.ticksPerUs (w.extractLsb' 0 8) }
  else if s.mode = .discard then
    if w.getLsbD 8 then { s with mode := .cmd } else s
  else
    match decode .cmd w with
    | .illegal _ => raiseIllegal w s
    | .instr c =>
      if s.failed then
        if c = .putstr then { s with mode := .discard } else s
      else if needsReady c = true ∧ s.initDone = false then
        raisePrecondition w (if c = .putstr then { s with mode := .discard } else s)
      else
        let s' := { s with seq := expand s.ticksPerUs c }
        if c = .putstr then { s' with mode := .str } else s'

/-- An opcode-table row as match and mask over the 32-bit word (30_encoding.md R84; format P, R88). -/
structure OpcodeRow where
  pattern : Word
  mask : Word
  deriving DecidableEq, Repr

/-- The word selects the row: `w & mask = match` (R84). -/
def OpcodeRow.selects (r : OpcodeRow) (w : Word) : Prop := w &&& r.mask = r.pattern

/-- The row of each instruction (R84; the payload rows are those of spec/opcode_table.json). -/
def opcodeRow : Instr → OpcodeRow
  | .init => ⟨0x01000000#32, 0xFFFFFFFF#32⟩
  | .clear => ⟨0x02000000#32, 0xFFFFFFFF#32⟩
  | .goto _ _ => ⟨0x03000000#32, 0xFFFFFE00#32⟩
  | .putchar _ => ⟨0x04000000#32, 0xFFFFFF00#32⟩
  | .putstr => ⟨0x05000000#32, 0xFFFFFFFF#32⟩
  | .wrcmd _ => ⟨0x06000000#32, 0xFFFFFF00#32⟩
  | .wrbyte _ => ⟨0x10000000#32, 0xFFFFFF00#32⟩
  | .selcmd => ⟨0x11000000#32, 0xFFFFFFFF#32⟩
  | .seldata => ⟨0x12000000#32, 0xFFFFFFFF#32⟩
  | .clock => ⟨0x13000000#32, 0xFFFFFFFF#32⟩
  | .delayus _ => ⟨0x20000000#32, 0xFF000000#32⟩
  | .delayms _ => ⟨0x21000000#32, 0xFF000000#32⟩
  | .payloadByte _ => ⟨0x00000000#32, 0x00000100#32⟩
  | .payloadEnd => ⟨0x00000100#32, 0x00000100#32⟩

/-! ### Safe states and runs -/

/-- The words the host has still to offer, in order: those of the `offer` moves to come. -/
def wordsToCome : List Move → List Word
  | [] => []
  | .offer w :: ms => w :: wordsToCome ms
  | .core :: ms => wordsToCome ms
  | .ticks _ :: ms => wordsToCome ms
  | .expire :: ms => wordsToCome ms
  | .rst :: ms => wordsToCome ms
  | .periph _ :: ms => wordsToCome ms
  | .foreignPort _ :: ms => wordsToCome ms
  | .foreignTimer :: ms => wordsToCome ms

/-- The words of the run's list that are not accepted yet (70_reset_and_hazards.md R265): the ones offered, then
the ones the host has still to offer. -/
def wordsLeft (s : State) : List Word := s.offered ++ wordsToCome s.script

/-- A run is over (R265): every word of the list accepted, SEQ empty, and `cmd_ready` = 1. -/
def RunOver (s : State) : Prop := wordsLeft s = [] ∧ s.seq = [] ∧ s.inReset = false

/-- A run without rejected words (60_exceptions.md R231). -/
def CleanRun (s : State) : Prop := s.errPrecond = false ∧ s.errIllegal = false

/-- The next move is one the environment may make: the timer does not expire while stopped
(40_timed_delay.md R113 (d)) and no other agent touches the port or the timer (20_memory.md R70). -/
def lawfulMove (s : State) : Bool :=
  match nextMove s with
  | .core => true
  | .ticks _ => true
  | .expire => s.timer.run
  | .offer _ => true
  | .rst => true
  | .periph _ => true
  | .foreignPort _ => false
  | .foreignTimer => false

/-- The invariant of the core: what holds in every state it reaches from reset, whatever the host and the timer
do. The first four fields are R40 (a) to (d) of 10_state.md, in a form every step keeps. -/
structure Inv (s : State) : Prop where
  /-- R40 (a): RW is 0. -/
  rwLow : lineOf .rw s.port = false
  /-- R40 (b): TEST is 0. -/
  testLow : lineOf .test s.port = false
  /-- R40 (c): E is 0 once SEQ is done, so E = 0 when BUSY = 0. -/
  eLow : lineOf .e (promisedPort s.seq s.port) = false
  /-- R40 (d), and no micro-operation and no string while FAILED = 1 (R28, 60_exceptions.md R203). -/
  failedQuiet : s.failed = true → s.port = 0x00#8 ∧ s.trace = [] ∧ s.seq = [] ∧ s.mode ≠ .str
  /-- R36: SEQ is what is left of the micro-operations of one accepted word. -/
  seqOrigin : ∃ i k, s.seq = (expand s.ticksPerUs i).drop k
  /-- R27, R160: while INIT is under way, after its MARK(0), the engine is Uninitialized. -/
  initUnready : MicroOp.mark true ∈ s.seq → s.seq = expand s.ticksPerUs .init ∨ s.initDone = false
  /-- R37: DL_ARMED exactly holds a WAIT at the head of SEQ, with DL_TICKS its count and the timer started. -/
  armedWaits : s.dlState = .armed → ∃ t rest, s.seq = .wait t :: rest ∧ s.dlTicks = t ∧ s.timer.run = true
  /-- 40_timed_delay.md R113 (a): the flag is up only once the count has passed. -/
  expiredDone : s.timer.expired = true → s.timer.count = 0#64
  /-- 70_reset_and_hazards.md R240: while the core is in reset it holds its reset values. -/
  resetQuiet : s.inReset = true → s.port = 0x00#8 ∧ s.trace = [] ∧ s.seq = [] ∧ s.initDone = false ∧
    s.failed = false ∧ s.errPrecond = false ∧ s.errIllegal = false ∧ s.lastErr = .none ∧ s.mode = .cmd
  /-- A failed core never becomes Ready and never records a precondition violation (60_exceptions.md R203). -/
  failedRecords : s.failed = true → s.initDone = false ∧ s.errPrecond = false ∧
    (s.lastErr = .peripheralInitFailure ∨ s.lastErr = .illegalCommand)
  /-- 60_exceptions.md R200: LAST_ERR agrees with the flag of the kind it names. -/
  lastErrAgrees : match s.lastErr with
    | .none => s.failed = false ∧ s.errPrecond = false ∧ s.errIllegal = false
    | .peripheralInitFailure => s.failed = true ∧ s.errIllegal = false
    | .preconditionViolation => s.errPrecond = true
    | .illegalCommand => s.errIllegal = true
  /-- 93 U10: the controller's phase is known only once INIT is complete. -/
  phaseKnown : s.phase = .unknown ↔ s.initDone = false

end Sys2Proof.Machine
end

