-- ==== Sys2Proof/Certificates/Slice0/Obligations.lean ====
section
/-! DEFINITION. The statements about the machine, for the provers. Each docstring names the rule of spec/ it
formalises; OBLIGATIONS.json lists them. Statements about an instruction's result conclude with the next state
exec answers, written as s with the fields the rules change, so that every other field is unchanged. -/

open Sys2Proof Sys2Proof.Machine Sys2Proof.Config

/-! ### Reset, status and parameters -/

/-- 10_state.md R41: the reset value of every piece of state the rule lists, for every launch. -/
def Obligations.LaunchHoldsResetValues : Prop :=
  ∀ (rate : TickRate) (ok : Bool),
    let s := State.launch rate ok
    s.port = 0x00#8 ∧ busy s = false ∧ s.initDone = false ∧ s.failed = !ok ∧
    s.errPrecond = false ∧ s.errIllegal = false ∧ strMode s = false ∧ strDiscard s = false ∧
    s.lastErr.code = (if s.failed then 1#2 else 0#2) ∧
    (status s).getLsbD 7 = false ∧ (status s).extractLsb' 10 22 = 0#22 ∧
    s.errWord = 0x00000000#32 ∧ s.seq = [] ∧ s.dlState = .idle ∧ s.dlTicks = 0#64 ∧ s.mode = .cmd ∧
    s.timer.run = false ∧ s.timer.expired = false ∧ cmdReady s = true

/-- 10_state.md R22: which port bit each line is, in the masks, in the levels read from a port value, and in DATA;
and 20_memory.md R55: the falling edge of E. -/
def Obligations.LinesAreTheirPortBits : Prop :=
  Line.mask .rw = 0x10#8 ∧ Line.mask .rs = 0x20#8 ∧ Line.mask .e = 0x40#8 ∧ Line.mask .test = 0x80#8 ∧
  ∀ v u : Byte,
    lineOf .rw v = v.getLsbD 4 ∧ lineOf .rs v = v.getLsbD 5 ∧ lineOf .e v = v.getLsbD 6 ∧
    lineOf .test v = v.getLsbD 7 ∧ dataOf v = v.extractLsb' 0 4 ∧
    (fallingEdge v u = true ↔ v.getLsbD 6 = true ∧ u.getLsbD 6 = false)

/-- 10_state.md R24 (with R33, R35, R42): each bit of STATUS is the field the rule places there, BUSY, STR_MODE and
STR_DISCARD being the functions of SEQ and MODE of R42 and LAST_ERR the codes of R33; and 20_memory.md R51, R52:
`cmd_ready` and the `err_word` bus. -/
def Obligations.StatusBitsAreTheFields : Prop :=
  ∀ s : State,
    (status s).getLsbD 0 = decide (s.seq ≠ []) ∧ (status s).getLsbD 1 = s.initDone ∧
    (status s).getLsbD 2 = s.failed ∧ (status s).getLsbD 3 = s.errPrecond ∧
    (status s).getLsbD 4 = s.errIllegal ∧ (status s).getLsbD 5 = decide (s.mode = .str) ∧
    (status s).getLsbD 6 = decide (s.mode = .discard) ∧ (status s).getLsbD 7 = false ∧
    (s.lastErr = .none → (status s).extractLsb' 8 2 = 0#2) ∧
    (s.lastErr = .peripheralInitFailure → (status s).extractLsb' 8 2 = 1#2) ∧
    (s.lastErr = .preconditionViolation → (status s).extractLsb' 8 2 = 2#2) ∧
    (s.lastErr = .illegalCommand → (status s).extractLsb' 8 2 = 3#2) ∧
    (status s).extractLsb' 10 22 = 0#22 ∧
    busy s = (status s).getLsbD 0 ∧ strMode s = (status s).getLsbD 5 ∧
    strDiscard s = (status s).getLsbD 6 ∧ s.lastErr.code = (status s).extractLsb' 8 2 ∧
    (cmdReady s = true ↔ s.inReset = false ∧ s.seq = []) ∧ errWordOut s = s.errWord

/-- 40_timed_delay.md R111: the conversions are exact, with no wrap, for every operand and every rate. -/
def Obligations.DurationsConvertExactly : Prop :=
  ∀ (rate : TickRate) (d : Duration),
    (microseconds rate d.toNat).toNat = d.toNat * rate.val ∧
    (milliseconds rate d.toNat).toNat = d.toNat * 1000 * rate.val ∧
    d.toNat * rate.val < 2 ^ 64 ∧ d.toNat * 1000 * rate.val < 2 ^ 64

/-- 40_timed_delay.md R116: the tick counts of the core's own waits at the reference rate. -/
def Obligations.ReferenceWaitsHaveTheirTicks : Prop :=
  microseconds ticksPerUsDefault 1 = 125#64 ∧ microseconds ticksPerUsDefault 100 = 12500#64 ∧
  milliseconds ticksPerUsDefault 2 = 250000#64 ∧ milliseconds ticksPerUsDefault 15 = 1875000#64

/-! ### Encoding -/

/-- Decode and encode agree on every well-formed instruction, every operand at every value (R82, R84, R85, R88). -/
def Obligations.DecodeOfEncodeIsTheInstruction : Prop :=
  ∀ (m : Mode) (i : Instr), i.wellFormed m = true → decode m (encode i) = .instr i

/-- A command has one word: the one accepted is the one its instruction encodes to (R82, R84, R85, R205). -/
def Obligations.CommandWordIsItsEncoding : Prop :=
  ∀ (w : Word) (i : Instr), decode .cmd w = .instr i → encode i = w ∧ i.isPayload = false

/-- 30_encoding.md R84, R86: a word accepted in MODE = CMD is legal exactly when a row of the map selects it, it is
then that row's command, and no two rows select one word. -/
def Obligations.OpcodeMapDecidesLegality : Prop :=
  (∀ (w : Word) (i : Instr), decode .cmd w = .instr i → i.isPayload = false ∧ (opcodeRow i).selects w) ∧
  (∀ (w : Word) (i : Instr), i.isPayload = false → (opcodeRow i).selects w →
    ∃ j, decode .cmd w = .instr j ∧ opcodeRow j = opcodeRow i) ∧
  (∀ (w : Word) (i j : Instr), i.isPayload = false → j.isPayload = false →
    (opcodeRow i).selects w → (opcodeRow j).selects w → opcodeRow i = opcodeRow j)

/-- 30_encoding.md R88: in MODE = STR or DISCARD every word is a payload word, bits 31:9 have no effect, and
bits 7:0 are the byte or, in a terminator, ignored. -/
def Obligations.PayloadWordsIgnoreHighBits : Prop :=
  ∀ (m : Mode) (w : Word), m ≠ .cmd →
    (w.getLsbD 8 = false → decode m w = .instr (.payloadByte (w.extractLsb' 0 8))) ∧
    (w.getLsbD 8 = true → decode m w = .instr .payloadEnd)

/-- Some words of 95_test_vectors.md section 2.6 decode as the table there says. -/
def Obligations.SampleWordsDecodeAsTheSpecSays : Prop :=
  decode .cmd 0x00000000#32 = .illegal .undefinedOpcode ∧
  decode .cmd 0x01000000#32 = .instr .init ∧
  decode .cmd 0x01000001#32 = .illegal .reservedBit ∧
  decode .cmd 0x03000102#32 = .instr (.goto 1#1 2#8) ∧
  decode .cmd 0x04000141#32 = .illegal .reservedBit ∧
  decode .cmd 0x20FFFFFF#32 = .instr (.delayus 16777215#24) ∧
  decode .cmd 0xFF000000#32 = .illegal .undefinedOpcode ∧
  decode .str 0xFFFFFE41#32 = .instr (.payloadByte 0x41#8) ∧
  decode .str 0x01000000#32 = .instr (.payloadByte 0x00#8) ∧
  decode .discard 0x03000102#32 = .instr .payloadEnd

/-- 30_encoding.md R91: PUTS expands to PUTSTR, one CHR for each byte in order, END; n + 2 words (R89). -/
def Obligations.PutsExpandsToHeaderBytesEnd : Prop :=
  ∀ text : List Byte, ∃ ws,
    assemble (.puts text) = some ws ∧
    ws = [0x05000000#32] ++ text.map (fun c => c.setWidth 32) ++ [0x00000100#32] ∧
    ws.length = text.length + 2

/-- 30_encoding.md R90: a line without operands assembles to its one word, and so does a line whose operands are in
range; an operand outside its range is an assembly error, never truncated. -/
def Obligations.AssemblerNeverTruncates : Prop :=
  assemble .init = some [0x01000000#32] ∧ assemble .clear = some [0x02000000#32] ∧
  assemble .putstr = some [0x05000000#32] ∧ assemble .endStr = some [0x00000100#32] ∧
  assemble .selcmd = some [0x11000000#32] ∧ assemble .seldata = some [0x12000000#32] ∧
  assemble .clock = some [0x13000000#32] ∧
  ∀ line col b d n : Nat,
    assemble (.goto line col) =
      (if line ≤ 1 ∧ col ≤ 255 then some [BitVec.ofNat 32 (0x03000000 + line * 256 + col)] else none) ∧
    assemble (.putchar b) = (if b ≤ 255 then some [BitVec.ofNat 32 (0x04000000 + b)] else none) ∧
    assemble (.chr b) = (if b ≤ 255 then some [BitVec.ofNat 32 b] else none) ∧
    assemble (.wrcmd b) = (if b ≤ 255 then some [BitVec.ofNat 32 (0x06000000 + b)] else none) ∧
    assemble (.wrbyte b) = (if b ≤ 255 then some [BitVec.ofNat 32 (0x10000000 + b)] else none) ∧
    assemble (.delayus d) = (if d ≤ 16777215 then some [BitVec.ofNat 32 (0x20000000 + d)] else none) ∧
    assemble (.delayms d) = (if d ≤ 16777215 then some [BitVec.ofNat 32 (0x21000000 + d)] else none) ∧
    assemble (.word n) = (if n ≤ 0xFFFFFFFF then some [BitVec.ofNat 32 n] else none)

/-! ### Taking a word -/

/-- A step runs the decoded instruction: idle and out of reset, on the core's move, the presented word leaves the
stream and exec runs what it decodes to in MODE (20_memory.md R51, 44_protocol_ops.md R170). -/
def Obligations.StepRunsTheDecodedWord : Prop :=
  ∀ (s : State) (w : Word) (ws : List Word) (i : Instr),
    nextMove s = .core → s.inReset = false → s.seq = [] → s.offered = w :: ws →
    decode s.mode w = .instr i →
    step s = exec i { s with offered := ws, script := s.script.tail }

/-- 60_exceptions.md R201: an illegal word accepted in MODE = CMD records the error and does nothing else, whatever
FAILED and INIT_DONE are; a payload word is never illegal. -/
def Obligations.IllegalWordIsOnlyRecorded : Prop :=
  (∀ (s : State) (w : Word) (ws : List Word) (r : IllegalReason),
    nextMove s = .core → s.inReset = false → s.seq = [] → s.offered = w :: ws → s.mode = .cmd →
    decode .cmd w = .illegal r →
    step s = .next { s with
      offered := ws, script := s.script.tail, errIllegal := true, lastErr := .illegalCommand, errWord := w }) ∧
  (∀ (m : Mode) (w : Word) (r : IllegalReason), m ≠ .cmd → decode m w ≠ .illegal r)

/-- 44_protocol_ops.md R170: an accepted word is handled exactly as the rule's procedure says, line by line
(Safety.acceptSpec), in every state and for every word. -/
def Obligations.AcceptanceFollowsTheProcedure : Prop :=
  ∀ (w : Word) (s : State), acceptWord w s = .next (acceptSpec w s)

/-- 60_exceptions.md R202: a legal command that needs Ready, accepted while FAILED = 0 and INIT_DONE = 0, is
rejected with exactly the record of R204, and a PUTSTR also enters DISCARD; INIT, DELAYUS and DELAYMS never raise it. -/
def Obligations.CommandBeforeInitIsRejected : Prop :=
  (∀ (s : State) (w : Word) (i : Instr),
    (i = .clear ∨ (∃ l c, i = .goto l c) ∨ (∃ b, i = .putchar b) ∨ i = .putstr ∨ (∃ b, i = .wrcmd b) ∨
      (∃ b, i = .wrbyte b) ∨ i = .selcmd ∨ i = .seldata ∨ i = .clock) →
    s.mode = .cmd → decode .cmd w = .instr i → s.failed = false → s.initDone = false →
    acceptWord w s = .next { s with
      errPrecond := true, lastErr := .preconditionViolation, errWord := w,
      mode := if i = .putstr then .discard else .cmd }) ∧
  (∀ (s t : State) (i : Instr),
    (i = .init ∨ (∃ d, i = .delayus d) ∨ (∃ d, i = .delayms d)) →
    exec i s = .next t → t.errPrecond = s.errPrecond)

/-- 60_exceptions.md R203: in the FAILED state every legal command word is discarded with no effect, but for the
MODE a PUTSTR sets. -/
def Obligations.FailedCoreDiscardsCommands : Prop :=
  ∀ (s : State) (i : Instr), i.isPayload = false → s.mode = .cmd → s.failed = true →
    exec i s = .next { s with mode := if i = .putstr then .discard else .cmd }

/-- 60_exceptions.md R207: in MODE = DISCARD a payload byte word has no effect and the terminator only returns
MODE to CMD, whatever the word's other bits are. -/
def Obligations.DiscardedPayloadHasNoEffect : Prop :=
  ∀ (w : Word) (s : State), s.mode = .discard →
    (w.getLsbD 8 = false → acceptWord w s = .next s) ∧
    (w.getLsbD 8 = true → acceptWord w s = .next { s with mode := .cmd })

/-- Frame of every instruction, in every state: accepting a word changes nothing but SEQ, MODE, the two sticky
flags, LAST_ERR and ERR_WORD (60_exceptions.md R208, 10_state.md R34). -/
def Obligations.AcceptanceFrame : Prop :=
  ∀ (i : Instr) (s t : State), exec i s = .next t →
    t = { s with
      seq := t.seq, mode := t.mode, errPrecond := t.errPrecond, errIllegal := t.errIllegal,
      lastErr := t.lastErr, errWord := t.errWord }

/-- Every instruction of the table completes: performed in the mode it is a word of, its micro-operations make
exactly the `W` events, pulses and minimum ticks of 44_protocol_ops.md R174, and MODE changes only for PUTSTR and
the terminator. -/
def Obligations.EveryCommandHasItsCost : Prop :=
  ∀ (i : Instr) (s : State),
    s.failed = false → s.initDone = true → s.mode ≠ .discard → i.wellFormed s.mode = true →
    s.seq = [] → lineOf .e s.port = false →
    ∃ ops,
      exec i s = .next { s with
        seq := ops, mode := if i = .putstr then .str else if i = .payloadEnd then .cmd else s.mode } ∧
      writesIn (promisedEvents ops s.port) = (commandCost i).1 ∧
      (latches s.port (promisedEvents ops s.port)).length = (commandCost i).2.1 ∧
      ticksIn (promisedEvents ops s.port) = (commandCost i).2.2 * s.ticksPerUs.val

/-- 43_register_select.md R154, 20_memory.md R56, R57, 44_protocol_ops.md R160: only INIT names M_RW (in its CLR)
and INIT_DONE (in its MARKs); SET names E and RS only, CLR names E, RS and, in INIT, RW. -/
def Obligations.OnlyInitNamesRwAndInitDone : Prop :=
  ∀ (i : Instr) (s t : State) (op : MicroOp), exec i s = .next t → s.seq = [] → op ∈ t.seq →
    op = .set .e ∨ op = .set .rs ∨ op = .clr .e ∨ op = .clr .rs ∨ (∃ n, op = .nib n) ∨ (∃ k, op = .wait k) ∨
    (i = .init ∧ (op = .clr .rw ∨ ∃ b, op = .mark b))

/-! ### The commands, each from any port with E = 0 -/

/-- 44_protocol_ops.md R160: INIT is performed whatever INIT_DONE is, between MARK(0) and MARK(1), with the 34
writes and the waits of steps 1 to 8; only the first two writes depend on the port, which ends at 0x01. -/
def Obligations.InitPerformsItsSequence : Prop :=
  ∀ s : State, s.mode = .cmd → s.failed = false → lineOf .e s.port = false → lineOf .test s.port = false →
    ∃ body,
      exec .init s = .next { s with seq := [.mark false] ++ body ++ [.mark true] } ∧
      (∀ b, MicroOp.mark b ∉ body) ∧
      promisedEvents body s.port =
        [.w (s.port &&& 0xEF#8), .w (s.port &&& 0xCF#8), .t (milliseconds s.ticksPerUs 15), .w 0x02#8]
        ++ clockTrace s.ticksPerUs 0x02#8 ++ clockTrace s.ticksPerUs 0x02#8 ++ clockTrace s.ticksPerUs 0x02#8
        ++ [.t (milliseconds s.ticksPerUs 15)]
        ++ writeByteTrace s.ticksPerUs 0x02#8 0x28#8
        ++ writeByteTrace s.ticksPerUs 0x08#8 0x0C#8
        ++ writeByteTrace s.ticksPerUs 0x0C#8 0x06#8
        ++ [.w 0x06#8, .t (microseconds s.ticksPerUs 1)]
        ++ writeByteTrace s.ticksPerUs 0x06#8 0x01#8
        ++ [.t (milliseconds s.ticksPerUs 2)] ∧
      promisedPort body s.port = 0x01#8

/-- 44_protocol_ops.md R160: on INIT's 11 falling edges the controller latches 2, 2, 2, 2, 8, 0, C, 0, 6, 0, 1, all
in the command register, whatever port INIT starts from with E = 0. -/
def Obligations.InitLatchesTheSameNibbles : Prop :=
  ∀ (rate : TickRate) (p : Byte), lineOf .e p = false →
    latches p (promisedEvents (expand rate .init) p) =
      [(false, 0x2#4), (false, 0x2#4), (false, 0x2#4), (false, 0x2#4), (false, 0x8#4), (false, 0x0#4),
       (false, 0xC#4), (false, 0x0#4), (false, 0x6#4), (false, 0x0#4), (false, 0x1#4)]

/-- 44_protocol_ops.md R161: CLEAR is one command-register selection, one transfer of 0x01 and MS(2). -/
def Obligations.ClearSendsOneTransferOfOne : Prop :=
  ∀ s : State, s.mode = .cmd → s.failed = false → s.initDone = true → lineOf .e s.port = false →
    ∃ ops,
      exec .clear s = .next { s with seq := ops } ∧
      promisedEvents ops s.port =
        [.w (s.port &&& 0xDF#8), .t (microseconds s.ticksPerUs 1)]
        ++ writeByteTrace s.ticksPerUs (s.port &&& 0xDF#8) 0x01#8
        ++ [.t (milliseconds s.ticksPerUs 2)] ∧
      promisedPort ops s.port = (s.port &&& 0xD0#8) ||| 0x01#8

/-- 44_protocol_ops.md R162: GOTO sends 0x80 or 0xC0 with the column masked to 6 bits, in the command register. -/
def Obligations.GotoSendsTheAddressCommand : Prop :=
  ∀ (s : State) (line : BitVec 1) (col : Byte),
    s.mode = .cmd → s.failed = false → s.initDone = true → lineOf .e s.port = false →
    ∃ (ops : List MicroOp) (cmd : Byte),
      exec (.goto line col) s = .next { s with seq := ops } ∧
      cmd.toNat = (if line = 0#1 then 0x80 else 0xC0) + col.toNat % 64 ∧
      promisedEvents ops s.port =
        [.w (s.port &&& 0xDF#8), .t (microseconds s.ticksPerUs 1)]
        ++ writeByteTrace s.ticksPerUs (s.port &&& 0xDF#8) cmd ∧
      promisedPort ops s.port = (s.port &&& 0xD0#8) ||| (cmd &&& 0x0F#8)

/-- 44_protocol_ops.md R163: PUTCHAR selects the data register and transfers the byte. -/
def Obligations.PutcharSendsItsByteAsData : Prop :=
  ∀ (s : State) (b : Byte),
    s.mode = .cmd → s.failed = false → s.initDone = true → lineOf .e s.port = false →
    ∃ ops,
      exec (.putchar b) s = .next { s with seq := ops } ∧
      promisedEvents ops s.port =
        [.w (s.port ||| 0x20#8), .t (microseconds s.ticksPerUs 1)]
        ++ writeByteTrace s.ticksPerUs (s.port ||| 0x20#8) b ∧
      promisedPort ops s.port = ((s.port ||| 0x20#8) &&& 0xF0#8) ||| (b &&& 0x0F#8)

/-- 44_protocol_ops.md R165: WRCMD selects the command register and transfers the byte, with no further wait. -/
def Obligations.WrcmdSendsItsByteAsCommand : Prop :=
  ∀ (s : State) (b : Byte),
    s.mode = .cmd → s.failed = false → s.initDone = true → lineOf .e s.port = false →
    ∃ ops,
      exec (.wrcmd b) s = .next { s with seq := ops } ∧
      promisedEvents ops s.port =
        [.w (s.port &&& 0xDF#8), .t (microseconds s.ticksPerUs 1)]
        ++ writeByteTrace s.ticksPerUs (s.port &&& 0xDF#8) b ∧
      promisedPort ops s.port = (s.port &&& 0xD0#8) ||| (b &&& 0x0F#8)

/-- 44_protocol_ops.md R164, the string: the header selects the data register and enters STR; a payload byte is one
WriteByte and stays in STR; the terminator makes no micro-operation and returns to CMD. -/
def Obligations.StringWordsDoTheirParts : Prop :=
  (∀ s : State, s.mode = .cmd → s.failed = false → s.initDone = true →
    exec .putstr s = .next { s with seq := [.set .rs, .wait (microseconds s.ticksPerUs 1)], mode := .str }) ∧
  (∀ (s : State) (b : Byte), s.mode = .str → lineOf .e s.port = false →
    ∃ ops, exec (.payloadByte b) s = .next { s with seq := ops } ∧
      promisedEvents ops s.port = writeByteTrace s.ticksPerUs s.port b ∧
      promisedPort ops s.port = (s.port &&& 0xF0#8) ||| (b &&& 0x0F#8)) ∧
  (∀ s : State, s.mode = .str → exec .payloadEnd s = .next { s with mode := .cmd })

/-- 44_protocol_ops.md R164: a string of two bytes against two PUTCHARs: the second SelectData, one `W` and one
`T(US(1))`, is the only difference, and both end at the same port. -/
def Obligations.StringDiffersFromCharsByOneSelect : Prop :=
  ∀ (rate : TickRate) (p a b : Byte), lineOf .e p = false →
    ∃ first second : List Event,
      promisedEvents (expand rate .putstr ++ expand rate (.payloadByte a) ++ expand rate (.payloadByte b)) p
        = first ++ second ∧
      promisedEvents (expand rate (.putchar a) ++ expand rate (.putchar b)) p
        = first ++ [.w (((p ||| 0x20#8) &&& 0xF0#8) ||| (a &&& 0x0F#8)), .t (microseconds rate 1)] ++ second ∧
      promisedPort (expand rate .putstr ++ expand rate (.payloadByte a) ++ expand rate (.payloadByte b)) p
        = promisedPort (expand rate (.putchar a) ++ expand rate (.putchar b)) p

/-- 42_nibble_transfer.md R143, R142: WRBYTE transfers its byte, high nibble first, in whichever register RS
selects; RW, RS, E and TEST end as they were. -/
def Obligations.WrbyteTransfersHighNibbleFirst : Prop :=
  ∀ (s : State) (b : Byte),
    s.mode = .cmd → s.failed = false → s.initDone = true → lineOf .e s.port = false →
    ∃ ops,
      exec (.wrbyte b) s = .next { s with seq := ops } ∧
      promisedEvents ops s.port = writeByteTrace s.ticksPerUs s.port b ∧
      writesIn (promisedEvents ops s.port) = 6 ∧
      ticksIn (promisedEvents ops s.port) = 204 * s.ticksPerUs.val ∧
      latches s.port (promisedEvents ops s.port) =
        [(lineOf .rs s.port, b.extractLsb' 4 4), (lineOf .rs s.port, b.extractLsb' 0 4)] ∧
      promisedPort ops s.port = (s.port &&& 0xF0#8) ||| (b &&& 0x0F#8)

/-- 43_register_select.md R150, R151 with R152, R153: SELCMD and SELDATA write the port with RS cleared or set, even
when RS is so already, wait US(1), and change no bit but RS. -/
def Obligations.SelectsWriteAndSettle : Prop :=
  ∀ s : State, s.mode = .cmd → s.failed = false → s.initDone = true →
    (∃ ops, exec .selcmd s = .next { s with seq := ops } ∧
      ops = [.clr .rs, .wait (microseconds s.ticksPerUs 1)] ∧
      promisedEvents ops s.port = [.w (s.port &&& 0xDF#8), .t (microseconds s.ticksPerUs 1)] ∧
      promisedPort ops s.port = s.port &&& 0xDF#8) ∧
    (∃ ops, exec .seldata s = .next { s with seq := ops } ∧
      ops = [.set .rs, .wait (microseconds s.ticksPerUs 1)] ∧
      promisedEvents ops s.port = [.w (s.port ||| 0x20#8), .t (microseconds s.ticksPerUs 1)] ∧
      promisedPort ops s.port = s.port ||| 0x20#8)

/-- 41_enable_clock.md R130, R133: CLOCK appends exactly the four micro-operations, so the events are W(p | M_E),
T(US(1)), W(p & ~M_E), T(US(1)); with E = 0 at the start the second write restores p. -/
def Obligations.ClockPulsesEnableOnce : Prop :=
  ∀ s : State, s.mode = .cmd → s.failed = false → s.initDone = true →
    ∃ ops, exec .clock s = .next { s with seq := ops } ∧
      ops = [.set .e, .wait (microseconds s.ticksPerUs 1), .clr .e, .wait (microseconds s.ticksPerUs 1)] ∧
      promisedEvents ops s.port =
        [.w (s.port ||| 0x40#8), .t (microseconds s.ticksPerUs 1),
         .w (s.port &&& 0xBF#8), .t (microseconds s.ticksPerUs 1)] ∧
      (lineOf .e s.port = false → promisedPort ops s.port = s.port)

/-- 40_timed_delay.md R117, R118: DELAYUS and DELAYMS are one WAIT of exactly their ticks, allowed in both states of
INIT_DONE, and leave the port alone. -/
def Obligations.DelaysAreOneWait : Prop :=
  ∀ (s : State) (d : Duration), s.mode = .cmd → s.failed = false →
    ∃ us ms : Ticks,
      exec (.delayus d) s = .next { s with seq := [.wait us] } ∧
      exec (.delayms d) s = .next { s with seq := [.wait ms] } ∧
      us.toNat = d.toNat * s.ticksPerUs.val ∧ ms.toNat = d.toNat * 1000 * s.ticksPerUs.val ∧
      promisedEvents [.wait us] s.port = [.t us] ∧ promisedEvents [.wait ms] s.port = [.t ms] ∧
      promisedPort [.wait us] s.port = s.port ∧ promisedPort [.wait ms] s.port = s.port

/-- 70_reset_and_hazards.md R251: RS is 0 after INIT, CLEAR, GOTO, WRCMD and SELCMD, and 1 after PUTCHAR, PUTSTR and
SELDATA, from any port. -/
def Obligations.RegisterSelectAfterEachCommand : Prop :=
  ∀ (s : State) (i : Instr), s.mode = .cmd → s.failed = false → s.initDone = true →
    ((i = .init ∨ i = .clear ∨ (∃ l c, i = .goto l c) ∨ (∃ b, i = .wrcmd b) ∨ i = .selcmd) →
      ∃ t, exec i s = .next t ∧ t.port = s.port ∧ lineOf .rs (promisedPort t.seq t.port) = false) ∧
    (((∃ b, i = .putchar b) ∨ i = .putstr ∨ i = .seldata) →
      ∃ t, exec i s = .next t ∧ t.port = s.port ∧ lineOf .rs (promisedPort t.seq t.port) = true)

/-! ### The sequencer, the port and the timer -/

/-- 20_memory.md R59 (with R56 to R58): a SET, CLR or NIB at the head of SEQ is one write, appends exactly one `W`
event, and preserves every port bit outside its mask. -/
def Obligations.LineOperationsPreserveOtherBits : Prop :=
  ∀ (s : State) (op : MicroOp) (ops : List MicroOp),
    nextMove s = .core → s.inReset = false → s.failed = false → s.seq = op :: ops →
    (∀ l, op = .set l → (l = .e ∨ l = .rs) →
      ∃ t, step s = .next t ∧ t.port = s.port ||| l.mask ∧ t.trace = s.trace ++ [.w t.port] ∧ t.seq = ops ∧
        ∀ k, l.mask.getLsbD k = false → t.port.getLsbD k = s.port.getLsbD k) ∧
    (∀ l, op = .clr l →
      ∃ t, step s = .next t ∧ t.port = s.port &&& ~~~l.mask ∧ t.trace = s.trace ++ [.w t.port] ∧ t.seq = ops ∧
        ∀ k, l.mask.getLsbD k = false → t.port.getLsbD k = s.port.getLsbD k) ∧
    (∀ n, op = .nib n →
      ∃ t, step s = .next t ∧ t.port.extractLsb' 0 4 = n ∧ t.port.extractLsb' 4 4 = s.port.extractLsb' 4 4 ∧
        t.trace = s.trace ++ [.w t.port] ∧ t.seq = ops)

/-- 40_timed_delay.md R112, R115: the core's moves on a WAIT(t) at the head of SEQ, t = 0 included: arm and start
the timer; hold while the flag is 0; then stop, go idle and append T(t). That loading and starting are one move, and
stopping, going idle and the event another, is the model's choice (log entry 7), and so is that after `tmr_stop` the
flag and the count stay (log entry 8). -/
def Obligations.WaitRunsTheTimerHandshake : Prop :=
  ∀ (s : State) (t : Ticks) (ops : List MicroOp),
    nextMove s = .core → s.inReset = false → s.failed = false → s.seq = .wait t :: ops →
    (s.dlState = .idle →
      step s = .next { s with
        script := s.script.tail, dlTicks := t, dlState := .armed,
        timer := { count := t, run := true, expired := false } }) ∧
    (s.dlState = .armed → s.timer.expired = false → step s = .next { s with script := s.script.tail }) ∧
    (s.dlState = .armed → s.timer.expired = true →
      step s = .next { s with
        script := s.script.tail, seq := ops, dlState := .idle, timer := { s.timer with run := false },
        trace := s.trace ++ [.t t] })

/-- 44_protocol_ops.md R160, 10_state.md R27, R36: a MARK(b) at the head of SEQ sets INIT_DONE to b and leaves SEQ;
it makes no event and leaves the port and every other field as it was, but for the nibble phase, the model's own mark
(log entry 6), which is aligned after MARK(1) and unknown after MARK(0). -/
def Obligations.MarkSetsInitDone : Prop :=
  ∀ (s : State) (b : Bool) (ops : List MicroOp),
    nextMove s = .core → s.inReset = false → s.seq = .mark b :: ops →
    step s = .next { s with
      script := s.script.tail, seq := ops, initDone := b, phase := if b then .aligned else .unknown }

/-- 40_timed_delay.md R113 (a), R114: T(n) is appended only at the end of a started WAIT(n) whose whole count has
passed. -/
def Obligations.DelayEventMeansTheCountPassed : Prop :=
  ∀ (s t : State) (n : Ticks), Inv s → step s = .next t → t.trace = s.trace ++ [.t n] →
    s.dlState = .armed ∧ s.dlTicks = n ∧ s.timer.run = true ∧ s.timer.expired = true ∧ s.timer.count = 0#64 ∧
    ∃ ops, s.seq = .wait n :: ops ∧ t.seq = ops

/-- 60_exceptions.md R230: while the timer never raises its flag, however many ticks pass, whatever words are offered
and whatever `periph_ok` does, the core stays in DL_ARMED with BUSY = 1 and accepts no word. -/
def Obligations.UnexpiredTimerHoldsTheCore : Prop :=
  ∀ (moves rest : List Move) (s : State),
    (∀ m ∈ moves, m = .core ∨ (∃ n, m = .ticks n) ∨ (∃ w, m = .offer w) ∨ (∃ b, m = .periph b)) →
    s.script = moves ++ rest → awaitsTimer s = true → s.inReset = false → s.failed = false →
    ∃ t new, Sys2Proof.core.run moves.length s = .next t ∧
      t.dlState = .armed ∧ busy t = true ∧ cmdReady t = false ∧ t.seq = s.seq ∧ t.port = s.port ∧
      t.trace = s.trace ∧ t.offered = s.offered ++ new

/-- 20_memory.md R68, 44_protocol_ops.md R177: whatever agent moves, while SEQ is not empty and reset is not
asserted, the trace so far together with what SEQ still promises does not change, and each step appends at most one
event: nothing is reordered, merged, dropped or cancelled. -/
def Obligations.NoMoveChangesThePromisedTrace : Prop :=
  ∀ s t : State, s.inReset = false → nextMove s ≠ .rst → s.seq ≠ [] → step s = .next t →
    promisedTrace t = promisedTrace s ∧ promisedPort t.seq t.port = promisedPort s.seq s.port ∧
    (t.trace = s.trace ∨ ∃ e, t.trace = s.trace ++ [e])

/-- 20_memory.md R68, 40_timed_delay.md R114: two runs from one state over the same list of words, with any two
timers and any two interleavings of core, timer and host moves, that both come to an end (R265) have the same trace,
PORT, STATUS and ERR_WORD: the result of a run does not depend on how late the timer expires or the host offers. -/
def Obligations.RunResultIsIndependentOfTheTimer : Prop :=
  ∀ (s : State) (m₁ m₂ : List Move) (tm₁ tm₂ : Timer) (k₁ k₂ : Nat) (t₁ t₂ : State),
    s.inReset = false →
    (∀ m ∈ m₁, m = .core ∨ (∃ n, m = .ticks n) ∨ m = .expire ∨ (∃ w, m = .offer w)) →
    (∀ m ∈ m₂, m = .core ∨ (∃ n, m = .ticks n) ∨ m = .expire ∨ (∃ w, m = .offer w)) →
    wordsToCome m₁ = wordsToCome m₂ →
    Sys2Proof.core.run k₁ { s with script := m₁, timer := tm₁ } = .next t₁ → RunOver t₁ →
    Sys2Proof.core.run k₂ { s with script := m₂, timer := tm₂ } = .next t₂ → RunOver t₂ →
    t₁.trace = t₂.trace ∧ t₁.port = t₂.port ∧ status t₁ = status t₂ ∧ t₁.errWord = t₂.errWord

/-- Every accepted word runs to its end: from any state the core reaches, once the timer expires in its turn (the
fairness premise of 60_exceptions.md R230, log entry 5), SEQ empties within three steps a micro-operation, having made
exactly the promised trace, and no word is accepted meanwhile (44_protocol_ops.md R177, 20_memory.md R51). A SEQ that
holds MARK(1), as INIT's does (R160), leaves the engine Ready; one without a mark leaves INIT_DONE as it was. -/
def Obligations.SequencerDrainsToThePromisedTrace : Prop :=
  ∀ s : State, Inv s → s.inReset = false → s.script = [] →
    ∃ (k : Nat) (t : State), k ≤ 3 * s.seq.length ∧ Sys2Proof.core.run k s = .next t ∧
      t.seq = [] ∧ cmdReady t = true ∧ t.trace = promisedTrace s ∧ t.port = promisedPort s.seq s.port ∧
      t.offered = s.offered ∧ (MicroOp.mark true ∈ s.seq → t.initDone = true) ∧
      ((∀ b, MicroOp.mark b ∉ s.seq) → t.initDone = s.initDone)

/-- 20_memory.md R51: a word leaves the stream only when `cmd_ready` = 1, one at a time and from its head. -/
def Obligations.WordsLeaveTheStreamOnlyWhenReady : Prop :=
  ∀ s t : State, step s = .next t →
    t.offered = s.offered ∨ (∃ w, nextMove s = .offer w ∧ t.offered = s.offered ++ [w]) ∨
    (cmdReady s = true ∧ ∃ w, s.offered = w :: t.offered)

/-- 60_exceptions.md R229: with SEQ empty and no word presented the core is ready and holds all its state. -/
def Obligations.IdleCoreHoldsItsState : Prop :=
  ∀ s : State, s.script = [] → s.inReset = false → s.seq = [] → s.offered = [] →
    step s = .next s ∧ cmdReady s = true

/-- 20_memory.md R70: another agent's write of the port, or use of the timer, is refused. -/
def Obligations.SecondWriterIsRefused : Prop :=
  ∀ s : State, ((∃ v, nextMove s = .foreignPort v) ∨ nextMove s = .foreignTimer) →
    step s = .refused .secondWriter

/-- 70_reset_and_hazards.md R266, last sentence, and 40_timed_delay.md R113 (d) (log entries 13 and 14): a port or
timer micro-operation while FAILED = 1 and a SET on RW or TEST are refused, and the expiry of a stopped timer is a
fault, each by name. -/
def Obligations.ForbiddenDrivesAreRefused : Prop :=
  (∀ (s : State) (op : MicroOp) (ops : List MicroOp),
    nextMove s = .core → s.inReset = false → s.failed = true → s.seq = op :: ops → (∀ b, op ≠ .mark b) →
    step s = .refused .driveWhileFailed) ∧
  (∀ (s : State) (l : Line) (ops : List MicroOp),
    nextMove s = .core → s.inReset = false → s.failed = false → s.seq = .set l :: ops → (l = .rw ∨ l = .test) →
    step s = .refused .drivesForbiddenLine) ∧
  (∀ s : State, nextMove s = .expire → s.timer.run = false → step s = .fault .expiryWhileStopped)

/-! ### Reset in any state -/

/-- 70_reset_and_hazards.md R240, R242: an edge with `rst` = 1 in any state abandons SEQ, clears the errors and
INIT_DONE, returns the port to 0x00, and leaves the timer running and the host's words where they are. -/
def Obligations.ResetEdgeAbandonsTheCommand : Prop :=
  ∀ s : State, nextMove s = .rst →
    ∃ t, step s = .next t ∧ t.port = 0x00#8 ∧ t.seq = [] ∧ t.initDone = false ∧ t.failed = false ∧
      t.errPrecond = false ∧ t.errIllegal = false ∧ t.lastErr = .none ∧ t.errWord = 0x00000000#32 ∧
      t.mode = .cmd ∧ t.dlState = .idle ∧ t.dlTicks = 0#64 ∧ cmdReady t = false ∧ t.timer = s.timer ∧
      t.offered = s.offered

/-- 10_state.md R28, 70_reset_and_hazards.md R240: the first edge out of reset samples `periph_ok`, and from then on
FAILED holds until the next reset edge. -/
def Obligations.PeriphOkIsSampledOnce : Prop :=
  (∀ s : State, nextMove s = .core → s.inReset = true →
    step s = .next { s with
      script := s.script.tail, inReset := false, failed := !s.periphOk,
      lastErr := if s.periphOk then .none else .peripheralInitFailure }) ∧
  (∀ s t : State, s.inReset = false → nextMove s ≠ .rst → step s = .next t → t.failed = s.failed)

/-! ### What holds of every step -/

/-- The invariant holds at every launch (10_state.md R40, R41). -/
def Obligations.EveryLaunchMeetsTheInvariant : Prop :=
  ∀ (rate : TickRate) (ok : Bool), Inv (State.launch rate ok) ∧ Inv State.reset

/-- Every step of any agent keeps the invariant (10_state.md R36, R37, R40; 60_exceptions.md R200, R203). -/
def Obligations.EveryStepKeepsTheInvariant : Prop :=
  ∀ s t : State, Inv s → step s = .next t → Inv t

/-- 10_state.md R40: in every state the core reaches from a launch, whatever words are offered and however the
agents' moves interleave: (a) RW = 0, (b) TEST = 0, (c) E = 0 when BUSY = 0, (d) FAILED = 1 has PORT = 0x00 and an
empty trace. -/
def Obligations.ReachedStatesKeepTheLinesLow : Prop :=
  ∀ (rate : TickRate) (ok : Bool) (words : List Word) (moves : List Move) (k : Nat) (t : State),
    Sys2Proof.core.run k { State.launch rate ok with offered := words, script := moves } = .next t →
    lineOf .rw t.port = false ∧ lineOf .test t.port = false ∧
    (busy t = false → lineOf .e t.port = false) ∧
    (t.failed = true → t.port = 0x00#8 ∧ t.trace = [])

/-- No state the core reaches is stuck: where the environment's next move is lawful (40_timed_delay.md R113,
20_memory.md R70), a step answers a next state. No instruction and no micro-operation ever stops the machine
(60_exceptions.md R200: "No micro-operation raises an error once it runs"). -/
def Obligations.LawfulMovesNeverStopTheMachine : Prop :=
  ∀ s : State, Inv s → lawfulMove s = true → ∃ t, step s = .next t

/-- 44_protocol_ops.md R175: Uninitialized to Ready happens only at the MARK(1) that ends INIT, Ready to
Uninitialized only at the MARK(0) that begins INIT and at reset; there is no other transition. Commands other than
INIT, DELAYUS and DELAYMS are performed (SEQ takes micro-operations) only in Ready. -/
def Obligations.ReadyComesOnlyFromACompleteInit : Prop :=
  (∀ s t : State, Inv s → step s = .next t →
    (s.initDone = false → t.initDone = true →
      s.seq = [.mark true] ∧ (expand s.ticksPerUs .init).getLast? = some (.mark true) ∧
      (expand s.ticksPerUs .init).count (.mark true) = 1) ∧
    (s.initDone = true → t.initDone = false →
      nextMove s = .rst ∨ s.seq = expand s.ticksPerUs .init)) ∧
  (∀ (s t : State) (i : Instr), s.mode = .cmd → i ≠ .init → (∀ d, i ≠ .delayus d) → (∀ d, i ≠ .delayms d) →
    exec i s = .next t → t.seq ≠ s.seq → s.initDone = true)

/-- 10_state.md R29, R30, R33, 60_exceptions.md R209: only reset clears the sticky flags, LAST_ERR and ERR_WORD;
otherwise LAST_ERR and ERR_WORD change only together, when an accepted word is rejected, and the sticky flags keep
the earlier kind. -/
def Obligations.OnlyResetClearsErrors : Prop :=
  ∀ s t : State, s.inReset = false → nextMove s ≠ .rst → step s = .next t →
    (s.errPrecond = true → t.errPrecond = true) ∧ (s.errIllegal = true → t.errIllegal = true) ∧
    (s.lastErr ≠ .none → t.lastErr ≠ .none) ∧ (s.failed = true → t.failed = true) ∧
    ((t.errWord = s.errWord ∧ t.lastErr = s.lastErr) ∨
      (s.offered = t.errWord :: t.offered ∧
        ((t.lastErr = .illegalCommand ∧ t.errIllegal = true) ∨
         (t.lastErr = .preconditionViolation ∧ t.errPrecond = true))))

/-- 60_exceptions.md R203, 10_state.md R28: while FAILED = 1 the core performs no port write and no timer operation:
no step but a reset changes the port, the trace, SEQ or INIT_DONE, and no core move touches the timer. -/
def Obligations.FailedCoreIsSilent : Prop :=
  ∀ s t : State, Inv s → s.failed = true → nextMove s ≠ .rst → step s = .next t →
    t.port = s.port ∧ t.trace = s.trace ∧ t.seq = [] ∧ t.initDone = false ∧ t.failed = true ∧
    (nextMove s = .core → t.timer = s.timer ∧ t.dlState = s.dlState)

/-- 00_scope.md R8: the rate is a parameter: no step changes it, and `periph_ok` changes only by the platform. -/
def Obligations.NoStepChangesTheParameters : Prop :=
  ∀ s t : State, step s = .next t →
    t.ticksPerUs = s.ticksPerUs ∧ (t.periphOk = s.periphOk ∨ nextMove s = .periph t.periphOk)

/-- 70_reset_and_hazards.md R253, 93 U10 (the model's own mark, log entry 6): only a core write that takes E from 1
to 0 changes a known nibble phase, and then it changes by one nibble. -/
def Obligations.NibblePhaseCountsFallingEdges : Prop :=
  ∀ s t : State, Inv s → step s = .next t → s.phase ≠ .unknown → t.phase ≠ .unknown →
    (fallingEdge s.port t.port = true → t.phase = s.phase.afterLatch) ∧
    (fallingEdge s.port t.port = false → t.phase = s.phase)
end

