-- ==== Sys2Proof/Laws/Decode.lean ====
section
/-! SUPPORT. The small lemmas of the encoding: the bits of a built word, the fields read back from it, and a word
rebuilt from its fields. -/

namespace Sys2Proof

/-! ### Bits of a built word (30_encoding.md R81, R82) -/

theorem mkWord_bit (op : BitVec 8) (a : BitVec 24) (i : Nat) :
    (mkWord op a).getLsbD i = if i < 24 then a.getLsbD i else op.getLsbD (i - 24) := by
  simp only [mkWord, BitVec.getLsbD_append]

theorem areaB_bit (b : Byte) (i : Nat) : (areaB b).getLsbD i = b.getLsbD i := by
  simp only [areaB, BitVec.getLsbD_append]
  by_cases h : i < 8
  · rw [if_pos h]
  · simp [h, BitVec.getLsbD_of_ge b i (by omega)]

theorem areaG_bit (l : BitVec 1) (c : Byte) (i : Nat) :
    (areaG l c).getLsbD i = if i < 8 then c.getLsbD i else l.getLsbD (i - 8) := by
  simp only [areaG, BitVec.getLsbD_append]
  by_cases h : i < 8
  · rw [if_pos h, if_pos h]
  · by_cases h9 : i - 8 < 1
    · rw [if_neg h, if_neg h, if_pos h9]
    · simp [h, h9, BitVec.getLsbD_of_ge l (i - 8) (by omega)]

/-! ### Fields of a built word (R83) -/

@[simp] theorem opField_mkWord (op : BitVec 8) (a : BitVec 24) : opField (mkWord op a) = op := by
  apply BitVec.eq_of_getLsbD_eq
  intro i hi
  simp only [opField, BitVec.getLsbD_extractLsb', mkWord_bit]
  rw [if_neg (by omega), Nat.add_sub_cancel_left]
  simp [hi]

@[simp] theorem area_mkWord (op : BitVec 8) (a : BitVec 24) : (mkWord op a).extractLsb' 0 24 = a := by
  apply BitVec.eq_of_getLsbD_eq
  intro i hi
  simp only [BitVec.getLsbD_extractLsb', mkWord_bit, Nat.zero_add]
  rw [if_pos hi]
  simp [hi]

@[simp] theorem durField_mkWord (op : BitVec 8) (a : BitVec 24) : durField (mkWord op a) = a :=
  area_mkWord op a

@[simp] theorem byteField_areaB (op : BitVec 8) (b : Byte) : byteField (mkWord op (areaB b)) = b := by
  apply BitVec.eq_of_getLsbD_eq
  intro i hi
  simp only [byteField, BitVec.getLsbD_extractLsb', mkWord_bit, areaB_bit, Nat.zero_add]
  rw [if_pos (by omega)]
  simp [hi]

@[simp] theorem reserved_areaB (op : BitVec 8) (b : Byte) : (mkWord op (areaB b)).extractLsb' 8 16 = 0#16 := by
  apply BitVec.eq_of_getLsbD_eq
  intro i hi
  simp only [BitVec.getLsbD_extractLsb', mkWord_bit, areaB_bit]
  rw [if_pos (by omega), BitVec.getLsbD_of_ge b (8 + i) (by omega)]
  simp

@[simp] theorem termField_areaB (op : BitVec 8) (b : Byte) : termField (mkWord op (areaB b)) = false := by
  simp only [termField, mkWord_bit, areaB_bit]
  rw [if_pos (by omega), BitVec.getLsbD_of_ge b 8 (by omega)]

@[simp] theorem byteField_areaG (op : BitVec 8) (l : BitVec 1) (c : Byte) :
    byteField (mkWord op (areaG l c)) = c := by
  apply BitVec.eq_of_getLsbD_eq
  intro i hi
  simp only [byteField, BitVec.getLsbD_extractLsb', mkWord_bit, areaG_bit, Nat.zero_add]
  rw [if_pos (by omega), if_pos hi]
  simp [hi]

@[simp] theorem lineField_areaG (op : BitVec 8) (l : BitVec 1) (c : Byte) :
    lineField (mkWord op (areaG l c)) = l := by
  apply BitVec.eq_of_getLsbD_eq
  intro i hi
  simp only [lineField, BitVec.getLsbD_extractLsb', mkWord_bit, areaG_bit]
  rw [if_pos (by omega), if_neg (by omega), Nat.add_sub_cancel_left]
  simp only [hi, decide_true, Bool.true_and]

@[simp] theorem reserved_areaG (op : BitVec 8) (l : BitVec 1) (c : Byte) :
    (mkWord op (areaG l c)).extractLsb' 9 15 = 0#15 := by
  apply BitVec.eq_of_getLsbD_eq
  intro i hi
  simp only [BitVec.getLsbD_extractLsb', mkWord_bit, areaG_bit]
  rw [if_pos (by omega), if_neg (by omega), BitVec.getLsbD_of_ge l (9 + i - 8) (by omega)]
  simp

/-! ### A word from its fields (R81, R82) -/

theorem word_of_fields (w : Word) : mkWord (opField w) (durField w) = w := by
  apply BitVec.eq_of_getLsbD_eq
  intro i hi
  simp only [mkWord_bit, opField, durField, BitVec.getLsbD_extractLsb']
  by_cases h : i < 24
  · simp only [h, if_true, decide_true, Bool.true_and, Nat.zero_add]
  · rw [if_neg h, show 24 + (i - 24) = i by omega]
    simp only [show i - 24 < 8 by omega, decide_true, Bool.true_and]

theorem area_of_formatB {w : Word} (h : w.extractLsb' 8 16 = 0#16) : durField w = areaB (byteField w) := by
  apply BitVec.eq_of_getLsbD_eq
  intro i hi
  simp only [areaB_bit, byteField, durField, BitVec.getLsbD_extractLsb', Nat.zero_add, hi, decide_true, Bool.true_and]
  by_cases h8 : i < 8
  · simp only [h8, decide_true, Bool.true_and]
  · have hb := congrArg (fun v : BitVec 16 => v.getLsbD (i - 8)) h
    simp only [BitVec.getLsbD_extractLsb', show 8 + (i - 8) = i by omega, show i - 8 < 16 by omega, decide_true,
      Bool.true_and, BitVec.getLsbD_zero] at hb
    simp only [h8, decide_false, Bool.false_and, hb]

theorem area_of_formatG {w : Word} (h : w.extractLsb' 9 15 = 0#15) :
    durField w = areaG (lineField w) (byteField w) := by
  apply BitVec.eq_of_getLsbD_eq
  intro i hi
  simp only [areaG_bit, byteField, lineField, durField, BitVec.getLsbD_extractLsb', Nat.zero_add, hi, decide_true,
    Bool.true_and]
  by_cases h8 : i < 8
  · simp only [h8, if_true, decide_true, Bool.true_and]
  · rw [if_neg h8, show 8 + (i - 8) = i by omega]
    by_cases h9 : i - 8 < 1
    · simp only [h9, decide_true, Bool.true_and]
    · have hb := congrArg (fun v : BitVec 15 => v.getLsbD (i - 9)) h
      simp only [BitVec.getLsbD_extractLsb', show 9 + (i - 9) = i by omega, show i - 9 < 15 by omega, decide_true,
        Bool.true_and, BitVec.getLsbD_zero] at hb
      simp only [h9, decide_false, Bool.false_and, hb]

/-! ### What the formats and the decoder can answer (R85) -/

theorem fmtN_instr {w : Word} {i j : Instr} (h : fmtN w i = .instr j) : j = i ∧ durField w = 0#24 := by
  unfold fmtN at h
  split at h
  next h0 => exact ⟨by injection h with h; exact h.symm, h0⟩
  · cases h

theorem fmtB_instr {w : Word} {i j : Instr} (h : fmtB w i = .instr j) :
    j = i ∧ durField w = areaB (byteField w) := by
  unfold fmtB at h
  split at h
  next h0 => exact ⟨by injection h with h; exact h.symm, area_of_formatB h0⟩
  · cases h

theorem fmtG_instr {w : Word} {i j : Instr} (h : fmtG w i = .instr j) :
    j = i ∧ durField w = areaG (lineField w) (byteField w) := by
  unfold fmtG at h
  split at h
  next h0 => exact ⟨by injection h with h; exact h.symm, area_of_formatG h0⟩
  · cases h

/-- Everything the decoder can answer in MODE = CMD when it answers an instruction: which one, by OP, and what the
operand area then is. -/
theorem decodeCommand_cases {w : Word} {i : Instr} (h : decodeCommand w = .instr i) :
    (opField w = 0x01#8 ∧ i = .init ∧ durField w = 0#24) ∨
    (opField w = 0x02#8 ∧ i = .clear ∧ durField w = 0#24) ∨
    (opField w = 0x03#8 ∧ i = .goto (lineField w) (byteField w) ∧ durField w = areaG (lineField w) (byteField w)) ∨
    (opField w = 0x04#8 ∧ i = .putchar (byteField w) ∧ durField w = areaB (byteField w)) ∨
    (opField w = 0x05#8 ∧ i = .putstr ∧ durField w = 0#24) ∨
    (opField w = 0x06#8 ∧ i = .wrcmd (byteField w) ∧ durField w = areaB (byteField w)) ∨
    (opField w = 0x10#8 ∧ i = .wrbyte (byteField w) ∧ durField w = areaB (byteField w)) ∨
    (opField w = 0x11#8 ∧ i = .selcmd ∧ durField w = 0#24) ∨
    (opField w = 0x12#8 ∧ i = .seldata ∧ durField w = 0#24) ∨
    (opField w = 0x13#8 ∧ i = .clock ∧ durField w = 0#24) ∨
    (opField w = 0x20#8 ∧ i = .delayus (durField w)) ∨
    (opField w = 0x21#8 ∧ i = .delayms (durField w)) := by
  unfold decodeCommand at h
  split at h
  next ho => exact .inl ⟨ho, fmtN_instr h⟩
  next ho => exact .inr (.inl ⟨ho, fmtN_instr h⟩)
  next ho => exact .inr (.inr (.inl ⟨ho, fmtG_instr h⟩))
  next ho => exact .inr (.inr (.inr (.inl ⟨ho, fmtB_instr h⟩)))
  next ho => exact .inr (.inr (.inr (.inr (.inl ⟨ho, fmtN_instr h⟩))))
  next ho => exact .inr (.inr (.inr (.inr (.inr (.inl ⟨ho, fmtB_instr h⟩)))))
  next ho => exact .inr (.inr (.inr (.inr (.inr (.inr (.inl ⟨ho, fmtB_instr h⟩))))))
  next ho => exact .inr (.inr (.inr (.inr (.inr (.inr (.inr (.inl ⟨ho, fmtN_instr h⟩)))))))
  next ho => exact .inr (.inr (.inr (.inr (.inr (.inr (.inr (.inr (.inl ⟨ho, fmtN_instr h⟩))))))))
  next ho => exact .inr (.inr (.inr (.inr (.inr (.inr (.inr (.inr (.inr (.inl ⟨ho, fmtN_instr h⟩)))))))))
  next ho =>
    injection h with h
    exact .inr (.inr (.inr (.inr (.inr (.inr (.inr (.inr (.inr (.inr (.inl ⟨ho, h.symm⟩))))))))))
  next ho =>
    injection h with h
    exact .inr (.inr (.inr (.inr (.inr (.inr (.inr (.inr (.inr (.inr (.inr ⟨ho, h.symm⟩))))))))))
  · cases h

end Sys2Proof
end

