-- ==== Sys2Proof/Laws/State.lean ====
section
/-! SUPPORT. Beside State: what each named operation does to each field, one lemma per field, so that no later
proof unfolds a record update. -/

namespace Sys2Proof.Machine

open Sys2Proof.Config

/-! ### portWrite -/

@[simp] theorem portWrite_port (v : Byte) (s : State) : (portWrite v s).port = v := rfl
@[simp] theorem portWrite_initDone (v : Byte) (s : State) : (portWrite v s).initDone = s.initDone := rfl
@[simp] theorem portWrite_failed (v : Byte) (s : State) : (portWrite v s).failed = s.failed := rfl
@[simp] theorem portWrite_errPrecond (v : Byte) (s : State) : (portWrite v s).errPrecond = s.errPrecond := rfl
@[simp] theorem portWrite_errIllegal (v : Byte) (s : State) : (portWrite v s).errIllegal = s.errIllegal := rfl
@[simp] theorem portWrite_lastErr (v : Byte) (s : State) : (portWrite v s).lastErr = s.lastErr := rfl
@[simp] theorem portWrite_errWord (v : Byte) (s : State) : (portWrite v s).errWord = s.errWord := rfl
@[simp] theorem portWrite_mode (v : Byte) (s : State) : (portWrite v s).mode = s.mode := rfl
@[simp] theorem portWrite_seq (v : Byte) (s : State) : (portWrite v s).seq = s.seq := rfl
@[simp] theorem portWrite_dlState (v : Byte) (s : State) : (portWrite v s).dlState = s.dlState := rfl
@[simp] theorem portWrite_dlTicks (v : Byte) (s : State) : (portWrite v s).dlTicks = s.dlTicks := rfl
@[simp] theorem portWrite_trace (v : Byte) (s : State) : (portWrite v s).trace = s.trace ++ [.w v] := rfl
@[simp] theorem portWrite_inReset (v : Byte) (s : State) : (portWrite v s).inReset = s.inReset := rfl
@[simp] theorem portWrite_timer (v : Byte) (s : State) : (portWrite v s).timer = s.timer := rfl
@[simp] theorem portWrite_offered (v : Byte) (s : State) : (portWrite v s).offered = s.offered := rfl
@[simp] theorem portWrite_periphOk (v : Byte) (s : State) : (portWrite v s).periphOk = s.periphOk := rfl
@[simp] theorem portWrite_ticksPerUs (v : Byte) (s : State) : (portWrite v s).ticksPerUs = s.ticksPerUs := rfl
@[simp] theorem portWrite_phase (v : Byte) (s : State) : (portWrite v s).phase = if fallingEdge s.port v then s.phase.afterLatch else s.phase := rfl
@[simp] theorem portWrite_script (v : Byte) (s : State) : (portWrite v s).script = s.script := rfl

/-! ### armDelay -/

@[simp] theorem armDelay_port (t : Ticks) (s : State) : (armDelay t s).port = s.port := rfl
@[simp] theorem armDelay_initDone (t : Ticks) (s : State) : (armDelay t s).initDone = s.initDone := rfl
@[simp] theorem armDelay_failed (t : Ticks) (s : State) : (armDelay t s).failed = s.failed := rfl
@[simp] theorem armDelay_errPrecond (t : Ticks) (s : State) : (armDelay t s).errPrecond = s.errPrecond := rfl
@[simp] theorem armDelay_errIllegal (t : Ticks) (s : State) : (armDelay t s).errIllegal = s.errIllegal := rfl
@[simp] theorem armDelay_lastErr (t : Ticks) (s : State) : (armDelay t s).lastErr = s.lastErr := rfl
@[simp] theorem armDelay_errWord (t : Ticks) (s : State) : (armDelay t s).errWord = s.errWord := rfl
@[simp] theorem armDelay_mode (t : Ticks) (s : State) : (armDelay t s).mode = s.mode := rfl
@[simp] theorem armDelay_seq (t : Ticks) (s : State) : (armDelay t s).seq = s.seq := rfl
@[simp] theorem armDelay_dlState (t : Ticks) (s : State) : (armDelay t s).dlState = .armed := rfl
@[simp] theorem armDelay_dlTicks (t : Ticks) (s : State) : (armDelay t s).dlTicks = t := rfl
@[simp] theorem armDelay_trace (t : Ticks) (s : State) : (armDelay t s).trace = s.trace := rfl
@[simp] theorem armDelay_inReset (t : Ticks) (s : State) : (armDelay t s).inReset = s.inReset := rfl
@[simp] theorem armDelay_timer (t : Ticks) (s : State) : (armDelay t s).timer = timerStart (timerLoad t s.timer) := rfl
@[simp] theorem armDelay_offered (t : Ticks) (s : State) : (armDelay t s).offered = s.offered := rfl
@[simp] theorem armDelay_periphOk (t : Ticks) (s : State) : (armDelay t s).periphOk = s.periphOk := rfl
@[simp] theorem armDelay_ticksPerUs (t : Ticks) (s : State) : (armDelay t s).ticksPerUs = s.ticksPerUs := rfl
@[simp] theorem armDelay_phase (t : Ticks) (s : State) : (armDelay t s).phase = s.phase := rfl
@[simp] theorem armDelay_script (t : Ticks) (s : State) : (armDelay t s).script = s.script := rfl

/-! ### finishDelay -/

@[simp] theorem finishDelay_port (t : Ticks) (s : State) : (finishDelay t s).port = s.port := rfl
@[simp] theorem finishDelay_initDone (t : Ticks) (s : State) : (finishDelay t s).initDone = s.initDone := rfl
@[simp] theorem finishDelay_failed (t : Ticks) (s : State) : (finishDelay t s).failed = s.failed := rfl
@[simp] theorem finishDelay_errPrecond (t : Ticks) (s : State) : (finishDelay t s).errPrecond = s.errPrecond := rfl
@[simp] theorem finishDelay_errIllegal (t : Ticks) (s : State) : (finishDelay t s).errIllegal = s.errIllegal := rfl
@[simp] theorem finishDelay_lastErr (t : Ticks) (s : State) : (finishDelay t s).lastErr = s.lastErr := rfl
@[simp] theorem finishDelay_errWord (t : Ticks) (s : State) : (finishDelay t s).errWord = s.errWord := rfl
@[simp] theorem finishDelay_mode (t : Ticks) (s : State) : (finishDelay t s).mode = s.mode := rfl
@[simp] theorem finishDelay_seq (t : Ticks) (s : State) : (finishDelay t s).seq = s.seq := rfl
@[simp] theorem finishDelay_dlState (t : Ticks) (s : State) : (finishDelay t s).dlState = .idle := rfl
@[simp] theorem finishDelay_dlTicks (t : Ticks) (s : State) : (finishDelay t s).dlTicks = s.dlTicks := rfl
@[simp] theorem finishDelay_trace (t : Ticks) (s : State) : (finishDelay t s).trace = s.trace ++ [.t t] := rfl
@[simp] theorem finishDelay_inReset (t : Ticks) (s : State) : (finishDelay t s).inReset = s.inReset := rfl
@[simp] theorem finishDelay_timer (t : Ticks) (s : State) : (finishDelay t s).timer = timerStop s.timer := rfl
@[simp] theorem finishDelay_offered (t : Ticks) (s : State) : (finishDelay t s).offered = s.offered := rfl
@[simp] theorem finishDelay_periphOk (t : Ticks) (s : State) : (finishDelay t s).periphOk = s.periphOk := rfl
@[simp] theorem finishDelay_ticksPerUs (t : Ticks) (s : State) : (finishDelay t s).ticksPerUs = s.ticksPerUs := rfl
@[simp] theorem finishDelay_phase (t : Ticks) (s : State) : (finishDelay t s).phase = s.phase := rfl
@[simp] theorem finishDelay_script (t : Ticks) (s : State) : (finishDelay t s).script = s.script := rfl

/-! ### markDone -/

@[simp] theorem markDone_port (b : Bool) (s : State) : (markDone b s).port = s.port := rfl
@[simp] theorem markDone_initDone (b : Bool) (s : State) : (markDone b s).initDone = b := rfl
@[simp] theorem markDone_failed (b : Bool) (s : State) : (markDone b s).failed = s.failed := rfl
@[simp] theorem markDone_errPrecond (b : Bool) (s : State) : (markDone b s).errPrecond = s.errPrecond := rfl
@[simp] theorem markDone_errIllegal (b : Bool) (s : State) : (markDone b s).errIllegal = s.errIllegal := rfl
@[simp] theorem markDone_lastErr (b : Bool) (s : State) : (markDone b s).lastErr = s.lastErr := rfl
@[simp] theorem markDone_errWord (b : Bool) (s : State) : (markDone b s).errWord = s.errWord := rfl
@[simp] theorem markDone_mode (b : Bool) (s : State) : (markDone b s).mode = s.mode := rfl
@[simp] theorem markDone_seq (b : Bool) (s : State) : (markDone b s).seq = s.seq := rfl
@[simp] theorem markDone_dlState (b : Bool) (s : State) : (markDone b s).dlState = s.dlState := rfl
@[simp] theorem markDone_dlTicks (b : Bool) (s : State) : (markDone b s).dlTicks = s.dlTicks := rfl
@[simp] theorem markDone_trace (b : Bool) (s : State) : (markDone b s).trace = s.trace := rfl
@[simp] theorem markDone_inReset (b : Bool) (s : State) : (markDone b s).inReset = s.inReset := rfl
@[simp] theorem markDone_timer (b : Bool) (s : State) : (markDone b s).timer = s.timer := rfl
@[simp] theorem markDone_offered (b : Bool) (s : State) : (markDone b s).offered = s.offered := rfl
@[simp] theorem markDone_periphOk (b : Bool) (s : State) : (markDone b s).periphOk = s.periphOk := rfl
@[simp] theorem markDone_ticksPerUs (b : Bool) (s : State) : (markDone b s).ticksPerUs = s.ticksPerUs := rfl
@[simp] theorem markDone_phase (b : Bool) (s : State) : (markDone b s).phase = if b then .aligned else .unknown := rfl
@[simp] theorem markDone_script (b : Bool) (s : State) : (markDone b s).script = s.script := rfl

/-! ### popSeq -/

@[simp] theorem popSeq_port (s : State) : (popSeq s).port = s.port := rfl
@[simp] theorem popSeq_initDone (s : State) : (popSeq s).initDone = s.initDone := rfl
@[simp] theorem popSeq_failed (s : State) : (popSeq s).failed = s.failed := rfl
@[simp] theorem popSeq_errPrecond (s : State) : (popSeq s).errPrecond = s.errPrecond := rfl
@[simp] theorem popSeq_errIllegal (s : State) : (popSeq s).errIllegal = s.errIllegal := rfl
@[simp] theorem popSeq_lastErr (s : State) : (popSeq s).lastErr = s.lastErr := rfl
@[simp] theorem popSeq_errWord (s : State) : (popSeq s).errWord = s.errWord := rfl
@[simp] theorem popSeq_mode (s : State) : (popSeq s).mode = s.mode := rfl
@[simp] theorem popSeq_seq (s : State) : (popSeq s).seq = s.seq.tail := rfl
@[simp] theorem popSeq_dlState (s : State) : (popSeq s).dlState = s.dlState := rfl
@[simp] theorem popSeq_dlTicks (s : State) : (popSeq s).dlTicks = s.dlTicks := rfl
@[simp] theorem popSeq_trace (s : State) : (popSeq s).trace = s.trace := rfl
@[simp] theorem popSeq_inReset (s : State) : (popSeq s).inReset = s.inReset := rfl
@[simp] theorem popSeq_timer (s : State) : (popSeq s).timer = s.timer := rfl
@[simp] theorem popSeq_offered (s : State) : (popSeq s).offered = s.offered := rfl
@[simp] theorem popSeq_periphOk (s : State) : (popSeq s).periphOk = s.periphOk := rfl
@[simp] theorem popSeq_ticksPerUs (s : State) : (popSeq s).ticksPerUs = s.ticksPerUs := rfl
@[simp] theorem popSeq_phase (s : State) : (popSeq s).phase = s.phase := rfl
@[simp] theorem popSeq_script (s : State) : (popSeq s).script = s.script := rfl

/-! ### raiseIllegal -/

@[simp] theorem raiseIllegal_port (w : Word) (s : State) : (raiseIllegal w s).port = s.port := rfl
@[simp] theorem raiseIllegal_initDone (w : Word) (s : State) : (raiseIllegal w s).initDone = s.initDone := rfl
@[simp] theorem raiseIllegal_failed (w : Word) (s : State) : (raiseIllegal w s).failed = s.failed := rfl
@[simp] theorem raiseIllegal_errPrecond (w : Word) (s : State) : (raiseIllegal w s).errPrecond = s.errPrecond := rfl
@[simp] theorem raiseIllegal_errIllegal (w : Word) (s : State) : (raiseIllegal w s).errIllegal = true := rfl
@[simp] theorem raiseIllegal_lastErr (w : Word) (s : State) : (raiseIllegal w s).lastErr = .illegalCommand := rfl
@[simp] theorem raiseIllegal_errWord (w : Word) (s : State) : (raiseIllegal w s).errWord = w := rfl
@[simp] theorem raiseIllegal_mode (w : Word) (s : State) : (raiseIllegal w s).mode = s.mode := rfl
@[simp] theorem raiseIllegal_seq (w : Word) (s : State) : (raiseIllegal w s).seq = s.seq := rfl
@[simp] theorem raiseIllegal_dlState (w : Word) (s : State) : (raiseIllegal w s).dlState = s.dlState := rfl
@[simp] theorem raiseIllegal_dlTicks (w : Word) (s : State) : (raiseIllegal w s).dlTicks = s.dlTicks := rfl
@[simp] theorem raiseIllegal_trace (w : Word) (s : State) : (raiseIllegal w s).trace = s.trace := rfl
@[simp] theorem raiseIllegal_inReset (w : Word) (s : State) : (raiseIllegal w s).inReset = s.inReset := rfl
@[simp] theorem raiseIllegal_timer (w : Word) (s : State) : (raiseIllegal w s).timer = s.timer := rfl
@[simp] theorem raiseIllegal_offered (w : Word) (s : State) : (raiseIllegal w s).offered = s.offered := rfl
@[simp] theorem raiseIllegal_periphOk (w : Word) (s : State) : (raiseIllegal w s).periphOk = s.periphOk := rfl
@[simp] theorem raiseIllegal_ticksPerUs (w : Word) (s : State) : (raiseIllegal w s).ticksPerUs = s.ticksPerUs := rfl
@[simp] theorem raiseIllegal_phase (w : Word) (s : State) : (raiseIllegal w s).phase = s.phase := rfl
@[simp] theorem raiseIllegal_script (w : Word) (s : State) : (raiseIllegal w s).script = s.script := rfl

/-! ### raisePrecondition -/

@[simp] theorem raisePrecondition_port (w : Word) (s : State) : (raisePrecondition w s).port = s.port := rfl
@[simp] theorem raisePrecondition_initDone (w : Word) (s : State) : (raisePrecondition w s).initDone = s.initDone := rfl
@[simp] theorem raisePrecondition_failed (w : Word) (s : State) : (raisePrecondition w s).failed = s.failed := rfl
@[simp] theorem raisePrecondition_errPrecond (w : Word) (s : State) : (raisePrecondition w s).errPrecond = true := rfl
@[simp] theorem raisePrecondition_errIllegal (w : Word) (s : State) : (raisePrecondition w s).errIllegal = s.errIllegal := rfl
@[simp] theorem raisePrecondition_lastErr (w : Word) (s : State) : (raisePrecondition w s).lastErr = .preconditionViolation := rfl
@[simp] theorem raisePrecondition_errWord (w : Word) (s : State) : (raisePrecondition w s).errWord = w := rfl
@[simp] theorem raisePrecondition_mode (w : Word) (s : State) : (raisePrecondition w s).mode = s.mode := rfl
@[simp] theorem raisePrecondition_seq (w : Word) (s : State) : (raisePrecondition w s).seq = s.seq := rfl
@[simp] theorem raisePrecondition_dlState (w : Word) (s : State) : (raisePrecondition w s).dlState = s.dlState := rfl
@[simp] theorem raisePrecondition_dlTicks (w : Word) (s : State) : (raisePrecondition w s).dlTicks = s.dlTicks := rfl
@[simp] theorem raisePrecondition_trace (w : Word) (s : State) : (raisePrecondition w s).trace = s.trace := rfl
@[simp] theorem raisePrecondition_inReset (w : Word) (s : State) : (raisePrecondition w s).inReset = s.inReset := rfl
@[simp] theorem raisePrecondition_timer (w : Word) (s : State) : (raisePrecondition w s).timer = s.timer := rfl
@[simp] theorem raisePrecondition_offered (w : Word) (s : State) : (raisePrecondition w s).offered = s.offered := rfl
@[simp] theorem raisePrecondition_periphOk (w : Word) (s : State) : (raisePrecondition w s).periphOk = s.periphOk := rfl
@[simp] theorem raisePrecondition_ticksPerUs (w : Word) (s : State) : (raisePrecondition w s).ticksPerUs = s.ticksPerUs := rfl
@[simp] theorem raisePrecondition_phase (w : Word) (s : State) : (raisePrecondition w s).phase = s.phase := rfl
@[simp] theorem raisePrecondition_script (w : Word) (s : State) : (raisePrecondition w s).script = s.script := rfl

/-! ### resetEdge -/

@[simp] theorem resetEdge_port (s : State) : (resetEdge s).port = portReset := rfl
@[simp] theorem resetEdge_initDone (s : State) : (resetEdge s).initDone = false := rfl
@[simp] theorem resetEdge_failed (s : State) : (resetEdge s).failed = false := rfl
@[simp] theorem resetEdge_errPrecond (s : State) : (resetEdge s).errPrecond = false := rfl
@[simp] theorem resetEdge_errIllegal (s : State) : (resetEdge s).errIllegal = false := rfl
@[simp] theorem resetEdge_lastErr (s : State) : (resetEdge s).lastErr = .none := rfl
@[simp] theorem resetEdge_errWord (s : State) : (resetEdge s).errWord = 0x00000000#32 := rfl
@[simp] theorem resetEdge_mode (s : State) : (resetEdge s).mode = .cmd := rfl
@[simp] theorem resetEdge_seq (s : State) : (resetEdge s).seq = [] := rfl
@[simp] theorem resetEdge_dlState (s : State) : (resetEdge s).dlState = .idle := rfl
@[simp] theorem resetEdge_dlTicks (s : State) : (resetEdge s).dlTicks = 0#64 := rfl
@[simp] theorem resetEdge_trace (s : State) : (resetEdge s).trace = [] := rfl
@[simp] theorem resetEdge_inReset (s : State) : (resetEdge s).inReset = true := rfl
@[simp] theorem resetEdge_timer (s : State) : (resetEdge s).timer = s.timer := rfl
@[simp] theorem resetEdge_offered (s : State) : (resetEdge s).offered = s.offered := rfl
@[simp] theorem resetEdge_periphOk (s : State) : (resetEdge s).periphOk = s.periphOk := rfl
@[simp] theorem resetEdge_ticksPerUs (s : State) : (resetEdge s).ticksPerUs = s.ticksPerUs := rfl
@[simp] theorem resetEdge_phase (s : State) : (resetEdge s).phase = .unknown := rfl
@[simp] theorem resetEdge_script (s : State) : (resetEdge s).script = s.script := rfl

/-! ### sampleEdge -/

@[simp] theorem sampleEdge_port (s : State) : (sampleEdge s).port = s.port := rfl
@[simp] theorem sampleEdge_initDone (s : State) : (sampleEdge s).initDone = s.initDone := rfl
@[simp] theorem sampleEdge_failed (s : State) : (sampleEdge s).failed = !s.periphOk := rfl
@[simp] theorem sampleEdge_errPrecond (s : State) : (sampleEdge s).errPrecond = s.errPrecond := rfl
@[simp] theorem sampleEdge_errIllegal (s : State) : (sampleEdge s).errIllegal = s.errIllegal := rfl
@[simp] theorem sampleEdge_lastErr (s : State) : (sampleEdge s).lastErr = if s.periphOk then .none else .peripheralInitFailure := rfl
@[simp] theorem sampleEdge_errWord (s : State) : (sampleEdge s).errWord = s.errWord := rfl
@[simp] theorem sampleEdge_mode (s : State) : (sampleEdge s).mode = s.mode := rfl
@[simp] theorem sampleEdge_seq (s : State) : (sampleEdge s).seq = s.seq := rfl
@[simp] theorem sampleEdge_dlState (s : State) : (sampleEdge s).dlState = s.dlState := rfl
@[simp] theorem sampleEdge_dlTicks (s : State) : (sampleEdge s).dlTicks = s.dlTicks := rfl
@[simp] theorem sampleEdge_trace (s : State) : (sampleEdge s).trace = s.trace := rfl
@[simp] theorem sampleEdge_inReset (s : State) : (sampleEdge s).inReset = false := rfl
@[simp] theorem sampleEdge_timer (s : State) : (sampleEdge s).timer = s.timer := rfl
@[simp] theorem sampleEdge_offered (s : State) : (sampleEdge s).offered = s.offered := rfl
@[simp] theorem sampleEdge_periphOk (s : State) : (sampleEdge s).periphOk = s.periphOk := rfl
@[simp] theorem sampleEdge_ticksPerUs (s : State) : (sampleEdge s).ticksPerUs = s.ticksPerUs := rfl
@[simp] theorem sampleEdge_phase (s : State) : (sampleEdge s).phase = s.phase := rfl
@[simp] theorem sampleEdge_script (s : State) : (sampleEdge s).script = s.script := rfl

/-! ### takeMove -/

@[simp] theorem takeMove_port (s : State) : (takeMove s).port = s.port := rfl
@[simp] theorem takeMove_initDone (s : State) : (takeMove s).initDone = s.initDone := rfl
@[simp] theorem takeMove_failed (s : State) : (takeMove s).failed = s.failed := rfl
@[simp] theorem takeMove_errPrecond (s : State) : (takeMove s).errPrecond = s.errPrecond := rfl
@[simp] theorem takeMove_errIllegal (s : State) : (takeMove s).errIllegal = s.errIllegal := rfl
@[simp] theorem takeMove_lastErr (s : State) : (takeMove s).lastErr = s.lastErr := rfl
@[simp] theorem takeMove_errWord (s : State) : (takeMove s).errWord = s.errWord := rfl
@[simp] theorem takeMove_mode (s : State) : (takeMove s).mode = s.mode := rfl
@[simp] theorem takeMove_seq (s : State) : (takeMove s).seq = s.seq := rfl
@[simp] theorem takeMove_dlState (s : State) : (takeMove s).dlState = s.dlState := rfl
@[simp] theorem takeMove_dlTicks (s : State) : (takeMove s).dlTicks = s.dlTicks := rfl
@[simp] theorem takeMove_trace (s : State) : (takeMove s).trace = s.trace := rfl
@[simp] theorem takeMove_inReset (s : State) : (takeMove s).inReset = s.inReset := rfl
@[simp] theorem takeMove_timer (s : State) : (takeMove s).timer = s.timer := rfl
@[simp] theorem takeMove_offered (s : State) : (takeMove s).offered = s.offered := rfl
@[simp] theorem takeMove_periphOk (s : State) : (takeMove s).periphOk = s.periphOk := rfl
@[simp] theorem takeMove_ticksPerUs (s : State) : (takeMove s).ticksPerUs = s.ticksPerUs := rfl
@[simp] theorem takeMove_phase (s : State) : (takeMove s).phase = s.phase := rfl
@[simp] theorem takeMove_script (s : State) : (takeMove s).script = s.script.tail := rfl

/-! ### The three read-modify-writes are one write each (20_memory.md R59) -/

@[simp] theorem setLine_eq (l : Line) (s : State) : setLine l s = portWrite (setValue l s.port) s := rfl
@[simp] theorem clrLine_eq (l : Line) (s : State) : clrLine l s = portWrite (clrValue l s.port) s := rfl
@[simp] theorem presentNibble_eq (n : Nibble) (s : State) :
    presentNibble n s = portWrite (nibValue n s.port) s := rfl

end Sys2Proof.Machine
end

