-- ==== Sys2Proof/Laws/Ops.lean ====
section
/-! SUPPORT. One lemma for each shared operation that says once everything it can do; later proofs cite these. -/

namespace Sys2Proof.Machine

open Sys2Proof.Config

/-! ### Port values bit by bit (20_memory.md R56 to R59) -/

theorem setValue_bit (l : Line) (v : Byte) (i : Nat) :
    (setValue l v).getLsbD i = (v.getLsbD i || l.mask.getLsbD i) := by
  simp [setValue]

theorem clrValue_bit (l : Line) (v : Byte) (i : Nat) :
    (clrValue l v).getLsbD i = (v.getLsbD i && !l.mask.getLsbD i) := by
  simp only [clrValue, BitVec.getLsbD_and, BitVec.getLsbD_not]
  by_cases h : i < 8
  · simp [h]
  · simp [BitVec.getLsbD_of_ge v i (by omega)]

/-- SET drives only its own line, to 1. -/
@[simp] theorem lineOf_setValue (k l : Line) (v : Byte) :
    lineOf k (setValue l v) = (lineOf k v || decide (k = l)) := by
  cases k <;> cases l <;> simp [lineOf, setValue, Line.mask, maskRW, maskRS, maskE, maskTEST]

/-- CLR drives only its own line, to 0. -/
@[simp] theorem lineOf_clrValue (k l : Line) (v : Byte) :
    lineOf k (clrValue l v) = (lineOf k v && decide (k ≠ l)) := by
  cases k <;> cases l <;> simp [lineOf, clrValue, Line.mask, maskRW, maskRS, maskE, maskTEST]

/-- NIB leaves the control lines alone. -/
@[simp] theorem lineOf_nibValue (k : Line) (n : Nibble) (v : Byte) :
    lineOf k (nibValue n v) = lineOf k v := by
  cases k <;> simp [lineOf, nibValue, maskDB]

/-! ### Lists of micro-operations -/

@[simp] theorem promisedPort_nil (p : Byte) : promisedPort [] p = p := rfl

@[simp] theorem promisedPort_cons (op : MicroOp) (ops : List MicroOp) (p : Byte) :
    promisedPort (op :: ops) p = promisedPort ops (opPort op p) := rfl

@[simp] theorem promisedEvents_nil (p : Byte) : promisedEvents [] p = [] := rfl

@[simp] theorem promisedEvents_cons (op : MicroOp) (ops : List MicroOp) (p : Byte) :
    promisedEvents (op :: ops) p = opEvents op p ++ promisedEvents ops (opPort op p) := rfl

@[simp] theorem promisedPort_append (a b : List MicroOp) (p : Byte) :
    promisedPort (a ++ b) p = promisedPort b (promisedPort a p) := by
  induction a generalizing p with
  | nil => rfl
  | cons op a ih => simp [ih]

@[simp] theorem promisedEvents_append (a b : List MicroOp) (p : Byte) :
    promisedEvents (a ++ b) p = promisedEvents a p ++ promisedEvents b (promisedPort a p) := by
  induction a generalizing p with
  | nil => rfl
  | cons op a ih => simp [ih]

@[simp] theorem opPort_wait (t : Ticks) (p : Byte) : opPort (.wait t) p = p := rfl
@[simp] theorem opPort_mark (b : Bool) (p : Byte) : opPort (.mark b) p = p := rfl
@[simp] theorem opPort_set (l : Line) (p : Byte) : opPort (.set l) p = setValue l p := rfl
@[simp] theorem opPort_clr (l : Line) (p : Byte) : opPort (.clr l) p = clrValue l p := rfl
@[simp] theorem opPort_nib (n : Nibble) (p : Byte) : opPort (.nib n) p = nibValue n p := rfl
@[simp] theorem opEvents_wait (t : Ticks) (p : Byte) : opEvents (.wait t) p = [.t t] := rfl
@[simp] theorem opEvents_mark (b : Bool) (p : Byte) : opEvents (.mark b) p = [] := rfl
@[simp] theorem opEvents_set (l : Line) (p : Byte) : opEvents (.set l) p = [.w (setValue l p)] := rfl
@[simp] theorem opEvents_clr (l : Line) (p : Byte) : opEvents (.clr l) p = [.w (clrValue l p)] := rfl
@[simp] theorem opEvents_nib (n : Nibble) (p : Byte) : opEvents (.nib n) p = [.w (nibValue n p)] := rfl

/-! ### The acceptance of a word (44_protocol_ops.md R170) -/

/-- A payload byte word does one of three things, by MODE. -/
theorem acceptByte_cases (w : Word) (b : Byte) (s : State) :
    (s.mode = .str ∧ acceptByte w b s = { s with seq := writeByteOps s.ticksPerUs b }) ∨
    (s.mode = .discard ∧ acceptByte w b s = s) ∨
    (s.mode = .cmd ∧ acceptByte w b s = raiseIllegal w s) := by
  cases h : s.mode <;> simp [acceptByte, h]

/-- A terminator word ends a string, or is illegal outside one. -/
theorem acceptEnd_cases (w : Word) (s : State) :
    (s.mode ≠ .cmd ∧ acceptEnd w s = { s with mode := .cmd }) ∨
    (s.mode = .cmd ∧ acceptEnd w s = raiseIllegal w s) := by
  cases h : s.mode <;> simp [acceptEnd, h]

/-- A command word in MODE = CMD: discarded, rejected or performed, in that order (60_exceptions.md R206). -/
theorem checkCommand_cases (i : Instr) (ops : List MicroOp) (r a : Mode) (s : State) :
    (s.failed = true ∧ checkCommand i ops r a s = { s with mode := r }) ∨
    (s.failed = false ∧ needsReady i = true ∧ s.initDone = false ∧
      checkCommand i ops r a s = raisePrecondition (encode i) { s with mode := r }) ∨
    (s.failed = false ∧ (needsReady i = false ∨ s.initDone = true) ∧
      checkCommand i ops r a s = { s with seq := ops, mode := a }) := by
  unfold checkCommand
  cases hf : s.failed <;> cases hn : needsReady i <;> cases hd : s.initDone <;> simp

/-- A command's meaning in MODE = CMD is the check. -/
theorem acceptCommand_cmd (i : Instr) (ops : List MicroOp) (r a : Mode) (s : State) (h : s.mode = .cmd) :
    acceptCommand i ops r a s = .next (checkCommand i ops r a s) := by
  simp [acceptCommand, h]

/-- A command's meaning in a string is its word's as payload. -/
theorem acceptCommand_payload (i : Instr) (ops : List MicroOp) (r a : Mode) (s : State) (h : s.mode ≠ .cmd) :
    acceptCommand i ops r a s = .next (acceptAsPayload (encode i) s) := by
  cases hm : s.mode <;> simp_all [acceptCommand]

/-- Every command's meaning in MODE = CMD, once for all twelve: the check, with the micro-operations of R172. -/
theorem exec_command (i : Instr) (s : State) (hi : i.isPayload = false) (hm : s.mode = .cmd) :
    exec i s = .next (checkCommand i (expand s.ticksPerUs i) (if i = .putstr then .discard else .cmd)
      (if i = .putstr then .str else .cmd) s) := by
  cases i with
  | payloadByte b => cases hi
  | payloadEnd => cases hi
  | _ =>
    simp [exec, execInit, execClear, execGoto, execPutchar, execPutstr, execWrcmd, execWrbyte, execSelcmd,
      execSeldata, execClock, execDelayus, execDelayms, acceptCommand, hm, expand, gotoByte, columnAddress]

/-- Every command's meaning in a string: its word is a payload word (30_encoding.md R88). -/
theorem exec_command_in_string (i : Instr) (s : State) (hi : i.isPayload = false) (hm : s.mode ≠ .cmd) :
    exec i s = .next (acceptAsPayload (encode i) s) := by
  cases i with
  | payloadByte b => cases hi
  | payloadEnd => cases hi
  | _ => exact acceptCommand_payload _ _ _ _ s hm

/-! ### The sequencer (10_state.md R36) -/

/-- One core move on a WAIT: arm, hold, or finish (40_timed_delay.md R112). -/
theorem waitStep_cases (t : Ticks) (s : State) :
    (s.dlState = .idle ∧ waitStep t s = armDelay t s) ∨
    (s.dlState = .armed ∧ s.timer.expired = false ∧ waitStep t s = s) ∨
    (s.dlState = .armed ∧ s.timer.expired = true ∧ waitStep t s = popSeq (finishDelay t s)) := by
  unfold waitStep
  cases s.dlState <;> cases s.timer.expired <;> simp

/-- Everything one core move on the head of SEQ can do when it answers a next state. -/
theorem microStep_next {op : MicroOp} {s s' : State} (h : microStep op s = .next s') :
    (∃ l, op = .set l ∧ s.failed = false ∧ l.settable = true ∧ s' = popSeq (setLine l s)) ∨
    (∃ l, op = .clr l ∧ s.failed = false ∧ s' = popSeq (clrLine l s)) ∨
    (∃ n, op = .nib n ∧ s.failed = false ∧ s' = popSeq (presentNibble n s)) ∨
    (∃ t, op = .wait t ∧ s.failed = false ∧ s' = waitStep t s) ∨
    (∃ b, op = .mark b ∧ s' = popSeq (markDone b s)) := by
  cases op with
  | set l =>
    simp only [microStep] at h
    split at h
    · cases h
    next hf =>
      split at h
      next hl => cases h; exact .inl ⟨l, rfl, eq_false_of_ne_true hf, hl, rfl⟩
      · cases h
  | clr l =>
    simp only [microStep] at h
    split at h
    · cases h
    next hf => cases h; exact .inr (.inl ⟨l, rfl, eq_false_of_ne_true hf, rfl⟩)
  | nib n =>
    simp only [microStep] at h
    split at h
    · cases h
    next hf => cases h; exact .inr (.inr (.inl ⟨n, rfl, eq_false_of_ne_true hf, rfl⟩))
  | wait t =>
    simp only [microStep] at h
    split at h
    · cases h
    next hf => cases h; exact .inr (.inr (.inr (.inl ⟨t, rfl, eq_false_of_ne_true hf, rfl⟩)))
  | mark b =>
    simp only [microStep] at h
    cases h
    exact .inr (.inr (.inr (.inr ⟨b, rfl, rfl⟩)))

/-! ### The core's move and the moves of all agents (00_scope.md R7) -/

/-- The core's move, out of reset and with a micro-operation to perform. -/
theorem coreMove_busy {s : State} {op : MicroOp} {ops : List MicroOp} (hr : s.inReset = false)
    (hs : s.seq = op :: ops) : coreMove s = microStep op s := by
  simp [coreMove, hr, hs]

/-- The core's move, idle with a word presented (20_memory.md R51). -/
theorem coreMove_accept {s : State} {w : Word} {ws : List Word} (hr : s.inReset = false) (hs : s.seq = [])
    (ho : s.offered = w :: ws) : coreMove s = acceptWord w { s with offered := ws } := by
  simp [coreMove, hr, hs, ho]

/-- The core's move, idle with nothing presented (60_exceptions.md R229). -/
theorem coreMove_idle {s : State} (hr : s.inReset = false) (hs : s.seq = []) (ho : s.offered = []) :
    coreMove s = .next s := by
  simp [coreMove, hr, hs, ho]

/-- Everything a core move can do. -/
theorem coreMove_cases (s : State) :
    (s.inReset = true ∧ coreMove s = .next (sampleEdge s)) ∨
    (s.inReset = false ∧ ∃ op ops, s.seq = op :: ops ∧ coreMove s = microStep op s) ∨
    (s.inReset = false ∧ s.seq = [] ∧ ∃ w ws, s.offered = w :: ws ∧
      coreMove s = acceptWord w { s with offered := ws }) ∨
    (s.inReset = false ∧ s.seq = [] ∧ s.offered = [] ∧ coreMove s = .next s) := by
  rcases Bool.eq_false_or_eq_true s.inReset with hr | hr
  · exact .inl ⟨hr, by simp [coreMove, hr]⟩
  · obtain hs | ⟨op, ops, hs⟩ : s.seq = [] ∨ ∃ op ops, s.seq = op :: ops := by cases s.seq <;> simp
    · obtain ho | ⟨w, ws, ho⟩ : s.offered = [] ∨ ∃ w ws, s.offered = w :: ws := by cases s.offered <;> simp
      · exact .inr (.inr (.inr ⟨hr, hs, ho, coreMove_idle hr hs ho⟩))
      · exact .inr (.inr (.inl ⟨hr, hs, w, ws, ho, coreMove_accept hr hs ho⟩))
    · exact .inr (.inl ⟨hr, op, ops, hs, coreMove_busy hr hs⟩)

/-- Everything a move can do when it answers a next state. -/
theorem perform_next {m : Move} {s s' : State} (h : perform m s = .next s') :
    (m = .core ∧ coreMove s = .next s') ∨
    (∃ n, m = .ticks n ∧ s' = { s with timer := timerTicks n s.timer }) ∨
    (m = .expire ∧ s.timer.run = true ∧ s' = { s with timer := timerExpire s.timer }) ∨
    (∃ w, m = .offer w ∧ s' = { s with offered := s.offered ++ [w] }) ∨
    (m = .rst ∧ s' = resetEdge s) ∨
    (∃ ok, m = .periph ok ∧ s' = { s with periphOk := ok }) := by
  cases m with
  | core => exact .inl ⟨rfl, h⟩
  | ticks n => cases h; exact .inr (.inl ⟨n, rfl, rfl⟩)
  | expire =>
    simp only [perform] at h
    split at h
    · cases h; exact .inr (.inr (.inl ⟨rfl, ‹_›, rfl⟩))
    · cases h
  | offer w => cases h; exact .inr (.inr (.inr (.inl ⟨w, rfl, rfl⟩)))
  | rst => cases h; exact .inr (.inr (.inr (.inr (.inl ⟨rfl, rfl⟩))))
  | periph ok => cases h; exact .inr (.inr (.inr (.inr (.inr ⟨ok, rfl, rfl⟩))))
  | foreignPort v => cases h
  | foreignTimer => cases h

/-- Everything one step can do when it answers a next state: the core's move, the timer's, the host's or the
platform's, each on the state with the scripted move taken. -/
theorem step_next {s s' : State} (h : step s = .next s') :
    (nextMove s = .core ∧ coreMove (takeMove s) = .next s') ∨
    (∃ n, nextMove s = .ticks n ∧ s' = { takeMove s with timer := timerTicks n s.timer }) ∨
    (nextMove s = .expire ∧ s.timer.run = true ∧ s' = { takeMove s with timer := timerExpire s.timer }) ∨
    (∃ w, nextMove s = .offer w ∧ s' = { takeMove s with offered := s.offered ++ [w] }) ∨
    (nextMove s = .rst ∧ s' = resetEdge (takeMove s)) ∨
    (∃ ok, nextMove s = .periph ok ∧ s' = { takeMove s with periphOk := ok }) :=
  perform_next h

/-! ### What accepting a word can do (44_protocol_ops.md R170) -/

/-- A payload byte word, as one of the cases of `exec_cases`. -/
theorem acceptByte_kinds (w : Word) (b : Byte) (s : State) :
    acceptByte w b s = s ∨ (s.mode = .cmd ∧ acceptByte w b s = raiseIllegal w s) ∨
    (s.mode = .str ∧ acceptByte w b s = { s with seq := expand s.ticksPerUs (.payloadByte b) }) := by
  rcases acceptByte_cases w b s with ⟨hm, h⟩ | ⟨-, h⟩ | ⟨hm, h⟩
  · exact .inr (.inr ⟨hm, h⟩)
  · exact .inl h
  · exact .inr (.inl ⟨hm, h⟩)

/-- Every instruction answers a next state, and only five kinds of it: the state as it was, MODE changed alone (a
discarded PUTSTR, a terminator), an error recorded, or SEQ set to one word's micro-operations. -/
theorem exec_cases (i : Instr) (s : State) :
    ∃ t, exec i s = .next t ∧
      (t = s ∨
       (∃ m, m ≠ .str ∧ t = { s with mode := m }) ∨
       (∃ m, m ≠ .str ∧ s.failed = false ∧ s.mode = .cmd ∧ i.isPayload = false ∧
         t = raisePrecondition (encode i) { s with mode := m }) ∨
       (s.mode = .cmd ∧ i.isPayload = true ∧ t = raiseIllegal (encode i) s) ∨
       (∃ m, s.failed = false ∧ s.mode = .cmd ∧ i.isPayload = false ∧
         t = { s with seq := expand s.ticksPerUs i, mode := m }) ∨
       (∃ b, s.mode = .str ∧ t = { s with seq := expand s.ticksPerUs (.payloadByte b) })) := by
  have byteKinds : ∀ b, s.mode ≠ .cmd → acceptByte (encode i) b s = s ∨
      (s.mode = .str ∧ acceptByte (encode i) b s = { s with seq := expand s.ticksPerUs (.payloadByte b) }) := by
    intro b hm
    rcases acceptByte_kinds (encode i) b s with h | ⟨h, -⟩ | h
    · exact .inl h
    · exact absurd h hm
    · exact .inr h
  by_cases hm : s.mode = .cmd
  · rcases Bool.eq_false_or_eq_true i.isPayload with hp | hp
    · refine ⟨raiseIllegal (encode i) s, ?_, .inr (.inr (.inr (.inl ⟨hm, hp, rfl⟩)))⟩
      cases i with
      | payloadByte b => simp [exec, execPayloadByte, acceptByte, hm]
      | payloadEnd => simp [exec, execPayloadEnd, acceptEnd, hm]
      | _ => cases hp
    · refine ⟨_, exec_command i s hp hm, ?_⟩
      have hr : (if i = .putstr then Mode.discard else .cmd) ≠ .str := by split <;> simp
      rcases checkCommand_cases i (expand s.ticksPerUs i) (if i = .putstr then .discard else .cmd)
        (if i = .putstr then .str else .cmd) s with ⟨-, h⟩ | ⟨hf, -, -, h⟩ | ⟨hf, -, h⟩
      · exact .inr (.inl ⟨_, hr, h⟩)
      · exact .inr (.inr (.inl ⟨_, hr, hf, hm, hp, h⟩))
      · exact .inr (.inr (.inr (.inr (.inl ⟨_, hf, hm, hp, h⟩))))
  · have hend : acceptEnd (encode i) s = { s with mode := .cmd } := by
      rcases acceptEnd_cases (encode i) s with ⟨-, h⟩ | ⟨h, -⟩
      · exact h
      · exact absurd h hm
    have htop : ∀ b, exec i s = .next (acceptByte (encode i) b s) → ∃ t, exec i s = .next t ∧
        (t = s ∨ ∃ b, s.mode = .str ∧ t = { s with seq := expand s.ticksPerUs (.payloadByte b) }) := by
      intro b h
      refine ⟨_, h, ?_⟩
      rcases byteKinds b hm with hb | ⟨hs, hb⟩
      · exact .inl hb
      · exact .inr ⟨b, hs, hb⟩
    have close : ∀ b, exec i s = .next (acceptEnd (encode i) s) ∨ exec i s = .next (acceptByte (encode i) b s) →
        ∃ t, exec i s = .next t ∧ ((∃ m, m ≠ Mode.str ∧ t = { s with mode := m }) ∨ t = s ∨
          ∃ b, s.mode = .str ∧ t = { s with seq := expand s.ticksPerUs (.payloadByte b) }) := by
      rintro b (h | h)
      · exact ⟨_, h, .inl ⟨.cmd, by simp, hend⟩⟩
      · obtain ⟨t, ht, h⟩ := htop b h
        exact ⟨t, ht, .inr h⟩
    have hexec : ∃ b, exec i s = .next (acceptEnd (encode i) s) ∨ exec i s = .next (acceptByte (encode i) b s) := by
      rcases Bool.eq_false_or_eq_true i.isPayload with hp | hp
      · cases i with
        | payloadByte b => exact ⟨b, .inr rfl⟩
        | payloadEnd => exact ⟨0, .inl rfl⟩
        | _ => cases hp
      · refine ⟨byteField (encode i), ?_⟩
        rw [exec_command_in_string i s hp hm]
        unfold acceptAsPayload
        split
        · exact .inl rfl
        · exact .inr rfl
    obtain ⟨b, hb⟩ := hexec
    obtain ⟨t, ht, h | h | h⟩ := close b hb
    · exact ⟨t, ht, .inr (.inl h)⟩
    · exact ⟨t, ht, .inl h⟩
    · exact ⟨t, ht, .inr (.inr (.inr (.inr (.inr h))))⟩

end Sys2Proof.Machine
end

