-- ==== Sys2Proof/Laws/PerInstr.lean ====
section
/-! SUPPORT. Statements made per instruction. The family TableRow: every instruction's word carries the fixed bits
its row of spec/opcode_table.json gives it (30_encoding.md R84, R88). -/

namespace Sys2Proof.Laws.TableRow

open Sys2Proof Sys2Proof.Machine

/-- The instruction's own word is one its row of the opcode table selects. -/
def Statement (i : Instr) : Prop := (opcodeRow i).selects (encode i)

/-- The low byte of an operand area under a mask that leaves it free. -/
theorem byte_row (op : BitVec 8) (b : Byte) :
    mkWord op (areaB b) &&& 0xFFFFFF00#32 = mkWord op 0#24 := by
  apply BitVec.eq_of_getLsbD_eq
  intro i hi
  simp only [mkWord, areaB, BitVec.getLsbD_and, BitVec.getLsbD_append]
  by_cases h : i < 8
  · have : (0xFFFFFF00#32).getLsbD i = false := by revert i; decide
    simp [this, show i < 24 by omega]
  · have : (0xFFFFFF00#32).getLsbD i = true := by revert i; decide
    by_cases h24 : i < 24 <;> simp [this, h, h24]

/-- GOTO's nine operand bits under its mask. -/
theorem goto_row (op : BitVec 8) (l : BitVec 1) (c : Byte) :
    mkWord op (areaG l c) &&& 0xFFFFFE00#32 = mkWord op 0#24 := by
  apply BitVec.eq_of_getLsbD_eq
  intro i hi
  simp only [mkWord, areaG, BitVec.getLsbD_and, BitVec.getLsbD_append]
  by_cases h : i < 9
  · have : (0xFFFFFE00#32).getLsbD i = false := by revert i; decide
    simp [this, show i < 24 by omega]
  · have : (0xFFFFFE00#32).getLsbD i = true := by revert i; decide
    by_cases h24 : i < 24
    · simp [this, h24, show ¬ i < 8 by omega, show ¬ i - 8 < 1 by omega]
    · simp [this, h24]

/-- The 24 duration bits under format D's mask. -/
theorem duration_row (op : BitVec 8) (d : Duration) : mkWord op d &&& 0xFF000000#32 = mkWord op 0#24 := by
  apply BitVec.eq_of_getLsbD_eq
  intro i hi
  simp only [mkWord, BitVec.getLsbD_and, BitVec.getLsbD_append]
  by_cases h : i < 24
  · have : (0xFF000000#32).getLsbD i = false := by revert i; decide
    simp [this, h]
  · have : (0xFF000000#32).getLsbD i = true := by revert i; decide
    simp [this, h]

theorem init : Statement .init := rfl
theorem clear : Statement .clear := rfl
theorem goto (line : BitVec 1) (col : Byte) : Statement (.goto line col) := goto_row 0x03#8 line col
theorem putchar (b : Byte) : Statement (.putchar b) := byte_row 0x04#8 b
theorem putstr : Statement .putstr := rfl
theorem wrcmd (b : Byte) : Statement (.wrcmd b) := byte_row 0x06#8 b
theorem wrbyte (b : Byte) : Statement (.wrbyte b) := byte_row 0x10#8 b
theorem selcmd : Statement .selcmd := rfl
theorem seldata : Statement .seldata := rfl
theorem clock : Statement .clock := rfl
theorem delayus (d : Duration) : Statement (.delayus d) := duration_row 0x20#8 d
theorem delayms (d : Duration) : Statement (.delayms d) := duration_row 0x21#8 d
theorem payloadByte (b : Byte) : Statement (.payloadByte b) := by
  show mkWord 0x00#8 (areaB b) &&& 0x00000100#32 = 0x00000000#32
  apply BitVec.eq_of_getLsbD_eq
  intro i hi
  simp only [mkWord, areaB, BitVec.getLsbD_and, BitVec.getLsbD_append]
  by_cases h : i = 8
  · subst h; simp
  · have : (0x00000100#32).getLsbD i = false := by revert i; decide
    simp [this]
theorem payloadEnd : Statement .payloadEnd := rfl

end Sys2Proof.Laws.TableRow
end

