-- ==== Sys2Proof/Laws/Run.lean ====
section
/-! SUPPORT. Runs of many steps: how `run` unfolds, and that what every step keeps, every run keeps. -/

namespace Sys2Proof.Machine

/-- A run of no step. -/
@[simp] theorem run_zero (s : State) : Sys2Proof.core.run 0 s = .next s := rfl

/-- A run whose first step answers a next state goes on from it. -/
theorem run_step {k : Nat} {s s' : State} (h : step s = .next s') :
    Sys2Proof.core.run (k + 1) s = Sys2Proof.core.run k s' := by
  have h' : Sys2Proof.core.step s = .next s' := h
  simp only [Host.Core.run, h']

/-- A run that answers a next state began with a step that did. -/
theorem run_succ_next {k : Nat} {s t : State} (h : Sys2Proof.core.run (k + 1) s = .next t) :
    ∃ s' : State, step s = .next s' ∧ Sys2Proof.core.run k s' = .next t := by
  simp only [Host.Core.run] at h
  split at h
  next s' hs => exact ⟨s', hs, h⟩
  · cases h
  · cases h

/-- A run goes on from where a shorter run ended. -/
theorem run_add {a b : Nat} {s s' : State} (h : Sys2Proof.core.run a s = .next s') :
    Sys2Proof.core.run (a + b) s = Sys2Proof.core.run b s' := by
  induction a generalizing s with
  | zero => cases h; rw [Nat.zero_add]
  | succ a ih =>
    obtain ⟨s₁, h₁, h₂⟩ := run_succ_next h
    rw [Nat.succ_add, run_step h₁]
    exact ih h₂

/-- What holds at the start and what every step keeps holds at the end of every run. -/
theorem run_keeps {P : State → Prop} (keep : ∀ s t : State, P s → step s = .next t → P t) {k : Nat}
    {s t : State} (h : P s) (hr : Sys2Proof.core.run k s = .next t) : P t := by
  induction k generalizing s with
  | zero => cases hr; exact h
  | succ k ih =>
    obtain ⟨s₁, h₁, h₂⟩ := run_succ_next hr
    exact ih (keep s s₁ h h₁) h₂

/-- The core's move, taken. -/
theorem step_core {s : State} (h : nextMove s = .core) : step s = coreMove (takeMove s) := by
  unfold step
  rw [h]
  rfl

end Sys2Proof.Machine
end

