-- ==== Sys2Proof/Tests/Slice0.lean ====
section
/-! SUPPORT. Small tests with results from spec/95_test_vectors.md (their ids stand in the comments), and for every
statement with hypotheses a witness that meets all of them together. -/

namespace Sys2Proof.Tests

open Sys2Proof Sys2Proof.Machine Sys2Proof.Config

/-! ### Well-formedness: one ill-formed term for each check, refused -/

theorem test_command_in_string_is_ill_formed : Instr.init.wellFormed .str = false := by decide
theorem test_command_in_discard_is_ill_formed : (Instr.goto 1#1 2#8).wellFormed .discard = false := by decide
theorem test_payload_byte_as_command_is_ill_formed : (Instr.payloadByte 0x41#8).wellFormed .cmd = false := by decide
theorem test_terminator_as_command_is_ill_formed : Instr.payloadEnd.wellFormed .cmd = false := by decide
/-- R8's range of `TICKS_PER_US`, at both ends. -/
theorem test_rates_outside_the_range_are_refused :
    tickRate? 0 = none ∧ tickRate? (2 ^ 30) = none ∧ tickRate? 1 = some ⟨1, by decide⟩ ∧
    tickRate? 125 = some ticksPerUsDefault := by decide

/-! ### Decoding: words written out bit by bit from 30_encoding.md R81 to R84 and R88
(OP in bits 31:24; format N has no operand; B has BYTE in 7:0; G has LINE in 8 and COL in 7:0; D has DUR in 23:0) -/

theorem test_decode_init : decode .cmd 0b00000001000000000000000000000000#32 = .instr .init := by decide
theorem test_decode_clear : decode .cmd 0b00000010000000000000000000000000#32 = .instr .clear := by decide
theorem test_decode_goto :
    decode .cmd 0b00000011000000000000000100001010#32 = .instr (.goto 1#1 10#8) := by decide
theorem test_decode_goto_line_zero :
    decode .cmd 0b00000011000000000000000011111110#32 = .instr (.goto 0#1 254#8) := by decide
theorem test_decode_putchar :
    decode .cmd 0b00000100000000000000000001000001#32 = .instr (.putchar 0x41#8) := by decide
theorem test_decode_putstr : decode .cmd 0b00000101000000000000000000000000#32 = .instr .putstr := by decide
theorem test_decode_wrcmd :
    decode .cmd 0b00000110000000000000000000101000#32 = .instr (.wrcmd 0x28#8) := by decide
theorem test_decode_wrbyte :
    decode .cmd 0b00010000000000000000000001011010#32 = .instr (.wrbyte 0x5A#8) := by decide
theorem test_decode_selcmd : decode .cmd 0b00010001000000000000000000000000#32 = .instr .selcmd := by decide
theorem test_decode_seldata : decode .cmd 0b00010010000000000000000000000000#32 = .instr .seldata := by decide
theorem test_decode_clock : decode .cmd 0b00010011000000000000000000000000#32 = .instr .clock := by decide
theorem test_decode_delayus :
    decode .cmd 0b00100000100000000000000000000101#32 = .instr (.delayus 8388613#24) := by decide
theorem test_decode_delayms :
    decode .cmd 0b00100001000000000000000000001111#32 = .instr (.delayms 15#24) := by decide
/-- V-DE-12: bits 31:9 have no effect. -/
theorem test_decode_payload_byte :
    decode .str 0b11111111111111111111111001000001#32 = .instr (.payloadByte 0x41#8) := by decide
/-- V-DE-15. -/
theorem test_decode_payload_end :
    decode .discard 0b00000011000000000000000100000010#32 = .instr .payloadEnd := by decide

/-- V-GO-10: bit 9 is reserved in format G. -/
theorem test_decode_goto_reserved : decode .cmd 0x03000200#32 = .illegal .reservedBit := by decide
/-- V-NT-5: bit 8 is reserved in format B. -/
theorem test_decode_wrbyte_reserved : decode .cmd 0x10000141#32 = .illegal .reservedBit := by decide
/-- V-RS-5: every operand bit is reserved in format N. -/
theorem test_decode_seldata_reserved : decode .cmd 0x12000080#32 = .illegal .reservedBit := by decide
/-- V-DE-7, V-DE-8. -/
theorem test_decode_undefined :
    decode .cmd 0x07000000#32 = .illegal .undefinedOpcode ∧
    decode .cmd 0x14000000#32 = .illegal .undefinedOpcode := by decide

/-- The words of 95_test_vectors.md section 2.5. -/
theorem test_encode_words :
    encode (.goto 1#1 255#8) = 0x030001FF#32 ∧ encode (.putchar 0x41#8) = 0x04000041#32 ∧
    encode (.delayms 15#24) = 0x2100000F#32 ∧ encode .payloadEnd = 0x00000100#32 := by decide

/-- The host's table words: a command is read as one, a word that is none as payload. -/
theorem test_table_words :
    decodeTableWord 32 0x03000102 = some (.goto 1#1 2#8) ∧
    decodeTableWord 32 0x00000041 = some (.payloadByte 0x41#8) ∧
    decodeTableWord 32 0x00000100 = some .payloadEnd := by decide

/-- P2: the words of GOTO 1, 2, and an operand outside its range. -/
theorem test_assemble :
    assemble (.goto 1 2) = some [0x03000102#32] ∧ assemble (.goto 2 0) = none ∧
    assemble (.puts []) = some [0x05000000#32, 0x00000100#32] := by decide

/-! ### Small states -/

/-- An idle core at the default rate, Ready, with this port value and mode. -/
def readyAt (port : Byte) (m : Mode) : State :=
  { State.reset with port := port, initDone := true, phase := .aligned, mode := m }

/-- A launch whose peripherals did not initialize. -/
def failedCore : State := State.launch ticksPerUsDefault false

/-- A Ready core with these micro-operations to perform. -/
def performing (ops : List MicroOp) (port : Byte) : State := { readyAt port .cmd with seq := ops }

/-- A Ready core that polls a started countdown of t ticks. -/
def polling (t : Ticks) (ops : List MicroOp) : State :=
  { performing (.wait t :: ops) 0x01#8 with
    dlState := .armed, dlTicks := t, timer := { count := t, run := true, expired := false } }

/-- The outcome is a next state with this property. -/
def nextIs (o : Host.Outcome State Fault Refusal) (f : State → Bool) : Bool :=
  match o with
  | .next t => f t
  | .fault _ => false
  | .refused _ => false

/-- The events the accepted word will make, and the port they end at. -/
def makes (es : List Event) (port : Byte) (t : State) : Bool :=
  decide (promisedEvents t.seq t.port = es) && decide (promisedPort t.seq t.port = port)

/-- STATUS, ERR_WORD and MODE after the step. -/
def shows (st ew : Word) (m : Mode) (t : State) : Bool :=
  decide (status t = st) && decide (errWordOut t = ew) && decide (t.mode = m)

/-! ### Instructions: at most two tests each, the traces of 95_test_vectors.md -/

/-- P1: steps 1 to 4 of INIT from reset, then its totals. -/
theorem test_init_trace :
    nextIs (exec .init State.reset) (fun t =>
      decide ((promisedEvents t.seq t.port).take 17 =
        [.w 0x00#8, .w 0x00#8, .t 1875000#64, .w 0x02#8, .w 0x42#8, .t 125#64, .w 0x02#8, .t 125#64,
         .w 0x42#8, .t 125#64, .w 0x02#8, .t 125#64, .w 0x42#8, .t 125#64, .w 0x02#8, .t 125#64,
         .t 1875000#64]) &&
      decide (ticksIn (promisedEvents t.seq t.port) = 4102875) &&
      decide (promisedPort t.seq t.port = 0x01#8)) = true := by decide

/-- V-IN-2: INIT again, from 0x2D. -/
theorem test_init_again :
    nextIs (exec .init (readyAt 0x2D#8 .cmd)) (fun t =>
      decide ((promisedEvents t.seq t.port).take 5 =
        [.w 0x2D#8, .w 0x0D#8, .t 1875000#64, .w 0x02#8, .w 0x42#8]) &&
      decide (promisedPort t.seq t.port = 0x01#8)) = true := by decide

/-- V-CL-1. -/
theorem test_clear :
    nextIs (exec .clear (readyAt 0x2D#8 .cmd)) (makes
      [.w 0x0D#8, .t 125#64, .w 0x00#8, .w 0x40#8, .t 125#64, .w 0x00#8, .t 125#64, .t 12500#64,
       .w 0x01#8, .w 0x41#8, .t 125#64, .w 0x01#8, .t 125#64, .t 12500#64, .t 250000#64] 0x01#8) = true := by
  decide

/-- V-ER-5: CLEAR is silently discarded when FAILED. -/
theorem test_clear_failed :
    nextIs (exec .clear failedCore) (shows 0x00000104#32 0x00000000#32 .cmd) = true := by decide

/-- V-GO-12. -/
theorem test_goto :
    nextIs (exec (.goto 1#1 2#8) (readyAt 0x25#8 .cmd)) (makes
      [.w 0x05#8, .t 125#64, .w 0x0C#8, .w 0x4C#8, .t 125#64, .w 0x0C#8, .t 125#64, .t 12500#64,
       .w 0x02#8, .w 0x42#8, .t 125#64, .w 0x02#8, .t 125#64, .t 12500#64] 0x02#8) = true := by decide

/-- V-GO-1, 2, 3, 4, 5, 6, 7, 8. -/
theorem test_goto_bytes :
    gotoByte 0#1 0#8 = 0x80#8 ∧ gotoByte 0#1 15#8 = 0x8F#8 ∧ gotoByte 1#1 0#8 = 0xC0#8 ∧
    gotoByte 1#1 15#8 = 0xCF#8 ∧ gotoByte 0#1 63#8 = 0xBF#8 ∧ gotoByte 0#1 64#8 = 0x80#8 ∧
    gotoByte 0#1 127#8 = 0xBF#8 ∧ gotoByte 1#1 255#8 = 0xFF#8 := by decide

/-- V-PC-1. -/
theorem test_putchar :
    nextIs (exec (.putchar 0x41#8) (readyAt 0x01#8 .cmd)) (makes
      [.w 0x21#8, .t 125#64, .w 0x24#8, .w 0x64#8, .t 125#64, .w 0x24#8, .t 125#64, .t 12500#64,
       .w 0x21#8, .w 0x61#8, .t 125#64, .w 0x21#8, .t 125#64, .t 12500#64] 0x21#8) = true := by decide

/-- V-ER-1: before INIT, a PreconditionViolation. -/
theorem test_putchar_before_init :
    nextIs (exec (.putchar 0x41#8) State.reset) (shows 0x00000208#32 0x04000041#32 .cmd) = true := by decide

/-- V-PS-1: the header of a string. -/
theorem test_putstr :
    nextIs (exec .putstr (readyAt 0x01#8 .cmd)) (fun t =>
      makes [.w 0x21#8, .t 125#64] 0x21#8 t && decide (t.mode = .str)) = true := by decide

/-- V-ER-2: before INIT it enters DISCARD. -/
theorem test_putstr_before_init :
    nextIs (exec .putstr State.reset) (shows 0x00000248#32 0x05000000#32 .discard) = true := by decide

/-- V-PS-2. -/
theorem test_payload_byte :
    nextIs (exec (.payloadByte 0x41#8) (readyAt 0x21#8 .str)) (fun t => makes
      [.w 0x24#8, .w 0x64#8, .t 125#64, .w 0x24#8, .t 125#64, .t 12500#64,
       .w 0x21#8, .w 0x61#8, .t 125#64, .w 0x21#8, .t 125#64, .t 12500#64] 0x21#8 t &&
      decide (t.mode = .str)) = true := by decide

/-- V-PS-3: the terminator ends the string and sends nothing. -/
theorem test_payload_end :
    nextIs (acceptWord 0x00000141#32 (readyAt 0x21#8 .str)) (fun t =>
      makes [] 0x21#8 t && decide (t.mode = .cmd)) = true := by decide

/-- V-WC-1. -/
theorem test_wrcmd :
    nextIs (exec (.wrcmd 0x28#8) (readyAt 0x21#8 .cmd)) (makes
      [.w 0x01#8, .t 125#64, .w 0x02#8, .w 0x42#8, .t 125#64, .w 0x02#8, .t 125#64, .t 12500#64,
       .w 0x08#8, .w 0x48#8, .t 125#64, .w 0x08#8, .t 125#64, .t 12500#64] 0x08#8) = true := by decide

/-- V-NT-3: high nibble first. -/
theorem test_wrbyte :
    nextIs (exec (.wrbyte 0x5A#8) (readyAt 0x0F#8 .cmd)) (makes
      [.w 0x05#8, .w 0x45#8, .t 125#64, .w 0x05#8, .t 125#64, .t 12500#64,
       .w 0x0A#8, .w 0x4A#8, .t 125#64, .w 0x0A#8, .t 125#64, .t 12500#64] 0x0A#8) = true := by decide

/-- V-RS-1. -/
theorem test_selcmd :
    nextIs (exec .selcmd (readyAt 0x21#8 .cmd)) (makes [.w 0x01#8, .t 125#64] 0x01#8) = true := by decide

/-- V-RS-2: it writes even when RS is already 0. -/
theorem test_selcmd_again :
    nextIs (exec .selcmd (readyAt 0x01#8 .cmd)) (makes [.w 0x01#8, .t 125#64] 0x01#8) = true := by decide

/-- V-RS-3. -/
theorem test_seldata :
    nextIs (exec .seldata (readyAt 0x01#8 .cmd)) (makes [.w 0x21#8, .t 125#64] 0x21#8) = true := by decide

/-- V-EC-1. -/
theorem test_clock :
    nextIs (exec .clock (readyAt 0x21#8 .cmd))
      (makes [.w 0x61#8, .t 125#64, .w 0x21#8, .t 125#64] 0x21#8) = true := by decide

/-- V-EC-4. -/
theorem test_clock_before_init :
    nextIs (exec .clock State.reset) (shows 0x00000208#32 0x13000000#32 .cmd) = true := by decide

/-- V-DL-4 and V-DL-11: the largest operand, Uninitialized. -/
theorem test_delayus :
    nextIs (exec (.delayus 16777215#24) State.reset) (makes [.t 2097151875#64] 0x00#8) = true := by decide

/-- V-DL-9: the largest operand at the largest rate. -/
theorem test_delayms :
    nextIs (exec (.delayms 16777215#24) (State.launch ⟨2 ^ 30 - 1, by decide⟩ true))
      (makes [.t 18014397418962945000#64] 0x00#8) = true := by decide

/-! ### Steps -/

/-- V-ER-3: a step accepts the word the host presents; illegal beats precondition. -/
theorem test_step_illegal_word :
    nextIs (step { State.reset with offered := [0xFF000000#32] })
      (shows 0x00000310#32 0xFF000000#32 .cmd) = true := by decide

/-- R265: a word the host has still to offer is not yet accepted. -/
theorem test_run_not_over :
    wordsLeft { State.reset with script := [.core, .offer 0x02000000#32] } = [0x02000000#32] := by decide

/-- V-ER-4. -/
theorem test_failed_status : status failedCore = 0x00000104#32 := by decide

/-- V-ER-6: an illegal word is recorded even when FAILED. -/
theorem test_failed_illegal_word :
    nextIs (step { failedCore with offered := [0xFF000000#32] })
      (shows 0x00000314#32 0xFF000000#32 .cmd) = true := by decide

/-- V-IN-3: reset with E = 1 returns the port to 0x00. -/
theorem test_reset_during_pulse :
    nextIs (step { performing (clockOps ticksPerUsDefault) 0x42#8 with script := [.rst] })
      (fun t => decide (t.port = 0x00#8) && decide (t.seq = []) && !t.initDone) = true := by decide

/-- One `SET(M_E)` is one write with the other bits kept (20_memory.md R56). -/
theorem test_step_set :
    nextIs (step (performing [.set .e] 0x2D#8)) (fun t => decide (t.port = 0x6D#8) &&
      decide (t.trace = [.w 0x6D#8]) && decide (t.seq = [])) = true := by decide

/-- A WAIT whose timer has expired completes with its event (40_timed_delay.md R112). -/
theorem test_step_wait_done :
    nextIs (step { polling 125#64 [] with timer := { count := 0#64, run := true, expired := true } })
      (fun t => decide (t.trace = [.t 125#64]) && !t.timer.run && decide (t.dlState = .idle)) = true := by
  decide

/-- The host's placing of a word makes the very next step run it: WRBYTE after reset is before INIT (V-NT-6). -/
theorem test_fetch_word :
    nextIs (step (State.reset.withFetchWord 32 0x10000041))
      (shows 0x00000208#32 0x10000041#32 .cmd) = true := by decide

/-- The same for a payload word, read in the mode its row names. -/
theorem test_fetch_payload_word :
    nextIs (step (State.reset.withFetchWord 32 0x00000041))
      (fun t => decide (t.seq = writeByteOps ticksPerUsDefault 0x41#8)) = true := by decide

/-! ### Witnesses: for each statement with hypotheses, concrete values that meet all of them -/

/-- The invariant at a Ready, idle core in MODE = CMD. -/
theorem readyAt_inv : Inv (readyAt 0x01#8 .cmd) where
  rwLow := by decide
  testLow := by decide
  eLow := by decide
  failedQuiet := by decide
  seqOrigin := ⟨.payloadEnd, 0, rfl⟩
  initUnready := by decide
  armedWaits := by intro h; cases h
  expiredDone := by decide
  resetQuiet := by decide
  failedRecords := by decide
  lastErrAgrees := ⟨rfl, rfl, rfl⟩
  phaseKnown := by decide

/-- The invariant at a Ready core in the middle of DELAYUS 1, its countdown started. -/
theorem polling_inv : Inv (polling 125#64 []) where
  rwLow := by decide
  testLow := by decide
  eLow := by decide
  failedQuiet := by decide
  seqOrigin := ⟨.delayus 1#24, 0, by decide⟩
  initUnready := by decide
  armedWaits := fun _ => ⟨125#64, [], rfl, rfl, rfl⟩
  expiredDone := by decide
  resetQuiet := by decide
  failedRecords := by decide
  lastErrAgrees := ⟨rfl, rfl, rfl⟩
  phaseKnown := by decide

/-- The same countdown, expired. -/
def polled : State :=
  { polling 125#64 [] with timer := { count := 0#64, run := true, expired := true } }

theorem polled_inv : Inv polled where
  rwLow := by decide
  testLow := by decide
  eLow := by decide
  failedQuiet := by decide
  seqOrigin := ⟨.delayus 1#24, 0, by decide⟩
  initUnready := by decide
  armedWaits := fun _ => ⟨125#64, [], rfl, rfl, rfl⟩
  expiredDone := by decide
  resetQuiet := by decide
  failedRecords := by decide
  lastErrAgrees := ⟨rfl, rfl, rfl⟩
  phaseKnown := by decide

/-- A core at the falling edge of a CLOCK from port 0x01. -/
def pulsing : State := performing ((clockOps ticksPerUsDefault).drop 2) 0x41#8

theorem pulsing_inv : Inv pulsing where
  rwLow := by decide
  testLow := by decide
  eLow := by decide
  failedQuiet := by decide
  seqOrigin := ⟨.clock, 2, rfl⟩
  initUnready := by decide
  armedWaits := by intro h; cases h
  expiredDone := by decide
  resetQuiet := by decide
  failedRecords := by decide
  lastErrAgrees := ⟨rfl, rfl, rfl⟩
  phaseKnown := by decide

/-- A core about to perform the MARK(1) that ends INIT. -/
def endingInit : State := { State.reset with port := 0x01#8, seq := [.mark true] }

theorem endingInit_inv : Inv endingInit where
  rwLow := by decide
  testLow := by decide
  eLow := by decide
  failedQuiet := by decide
  seqOrigin := ⟨.init, 69, by decide⟩
  initUnready := by decide
  armedWaits := by intro h; cases h
  expiredDone := by decide
  resetQuiet := by decide
  failedRecords := by decide
  lastErrAgrees := ⟨rfl, rfl, rfl⟩
  phaseKnown := by decide

/-- A Ready core about to perform INIT's MARK(0). -/
def startingInit : State := performing (initOps ticksPerUsDefault) 0x01#8

theorem startingInit_inv : Inv startingInit where
  rwLow := by decide
  testLow := by decide
  eLow := by decide
  failedQuiet := by decide
  seqOrigin := ⟨.init, 0, rfl⟩
  initUnready := fun _ => .inl rfl
  armedWaits := by intro h; cases h
  expiredDone := by decide
  resetQuiet := by decide
  failedRecords := by decide
  lastErrAgrees := ⟨rfl, rfl, rfl⟩
  phaseKnown := by decide

theorem failedCore_inv : Inv failedCore where
  rwLow := by decide
  testLow := by decide
  eLow := by decide
  failedQuiet := by decide
  seqOrigin := ⟨.payloadEnd, 0, rfl⟩
  initUnready := by decide
  armedWaits := by intro h; cases h
  expiredDone := by decide
  resetQuiet := by decide
  failedRecords := by decide
  lastErrAgrees := ⟨rfl, rfl⟩
  phaseKnown := by decide

theorem witness_DecodeOfEncodeIsTheInstruction :
    (Instr.goto 1#1 255#8).wellFormed .cmd = true ∧ (Instr.delayms 16777215#24).wellFormed .cmd = true ∧
    (Instr.payloadByte 0xFF#8).wellFormed .str = true ∧ Instr.payloadEnd.wellFormed .discard = true := by decide

theorem witness_CommandWordIsItsEncoding : decode .cmd 0x030001FF#32 = .instr (.goto 1#1 255#8) := by decide

theorem witness_OpcodeMapDecidesLegality :
    decode .cmd 0x060000FF#32 = .instr (.wrcmd 0xFF#8) ∧ (Instr.wrcmd 0#8).isPayload = false ∧
    (opcodeRow (.wrcmd 0#8)).selects 0x060000FF#32 ∧ (Instr.wrcmd 1#8).isPayload = false ∧
    (opcodeRow (.wrcmd 1#8)).selects 0x060000FF#32 := by
  unfold OpcodeRow.selects; decide

theorem witness_PayloadWordsIgnoreHighBits :
    Mode.str ≠ .cmd ∧ (0xFFFFFEFF#32).getLsbD 8 = false ∧ Mode.discard ≠ .cmd ∧
    (0x00000100#32).getLsbD 8 = true := by decide

/-- One command word presented to a Ready core. -/
def presented : State := { readyAt 0x01#8 .cmd with offered := [0x13000000#32] }

theorem witness_StepRunsTheDecodedWord :
    nextMove presented = .core ∧ presented.inReset = false ∧ presented.seq = [] ∧
    presented.offered = 0x13000000#32 :: [] ∧ decode presented.mode 0x13000000#32 = .instr .clock := by decide

/-- The same clause of the statement in a string, where the same word is a byte. -/
theorem witness_StepRunsTheDecodedWord_in_string :
    nextMove { presented with mode := .str } = .core ∧
    decode .str 0x13000000#32 = .instr (.payloadByte 0x00#8) := by decide

theorem witness_IllegalWordIsOnlyRecorded :
    nextMove { failedCore with offered := [0x01000001#32] } = .core ∧ failedCore.inReset = false ∧
    failedCore.seq = [] ∧ failedCore.mode = .cmd ∧ decode .cmd 0x01000001#32 = .illegal .reservedBit ∧
    Mode.discard ≠ .cmd := by decide

theorem witness_CommandBeforeInitIsRejected :
    State.reset.mode = .cmd ∧ State.reset.failed = false ∧ State.reset.initDone = false ∧
    decode .cmd 0x05000000#32 = .instr .putstr ∧ decode .cmd 0x030001FF#32 = .instr (.goto 1#1 255#8) ∧
    nextIs (exec (.delayus 0#24) State.reset) (fun _ => true) = true ∧
    nextIs (exec .init State.reset) (fun _ => true) = true := by decide

theorem witness_FailedCoreDiscardsCommands :
    Instr.putstr.isPayload = false ∧ failedCore.mode = .cmd ∧ failedCore.failed = true := by decide

theorem witness_DiscardedPayloadHasNoEffect :
    (readyAt 0x01#8 .discard).mode = .discard ∧ (0x01000041#32).getLsbD 8 = false ∧
    (0x00000141#32).getLsbD 8 = true := by decide

theorem witness_AcceptanceFrame : ∃ t, exec (.wrbyte 0x5A#8) (readyAt 0x01#8 .cmd) = .next t := ⟨_, rfl⟩

theorem witness_EveryCommandHasItsCost :
    (readyAt 0x21#8 .cmd).failed = false ∧ (readyAt 0x21#8 .cmd).initDone = true ∧
    (readyAt 0x21#8 .cmd).mode ≠ .discard ∧ Instr.init.wellFormed (readyAt 0x21#8 .cmd).mode = true ∧
    (Instr.payloadByte 0xFF#8).wellFormed (readyAt 0x21#8 .str).mode = true ∧ (readyAt 0x21#8 .str).seq = [] ∧
    lineOf .e (readyAt 0x21#8 .str).port = false := by decide

theorem witness_OnlyInitNamesRwAndInitDone :
    ∃ t, exec .init State.reset = .next t ∧ State.reset.seq = [] ∧ MicroOp.clr .rw ∈ t.seq ∧
      MicroOp.mark true ∈ t.seq := ⟨_, rfl, by decide, by decide, by decide⟩

theorem witness_InitPerformsItsSequence :
    (readyAt 0x3F#8 .cmd).mode = .cmd ∧ (readyAt 0x3F#8 .cmd).failed = false ∧
    lineOf .e (readyAt 0x3F#8 .cmd).port = false ∧ lineOf .test (readyAt 0x3F#8 .cmd).port = false := by decide

theorem witness_InitLatchesTheSameNibbles : lineOf .e 0xBF#8 = false := by decide

/-- The premises of the statements about one command of a Ready core, together. -/
theorem witness_ready_commands :
    (readyAt 0xBF#8 .cmd).mode = .cmd ∧ (readyAt 0xBF#8 .cmd).failed = false ∧
    (readyAt 0xBF#8 .cmd).initDone = true ∧ lineOf .e (readyAt 0xBF#8 .cmd).port = false := by decide

theorem witness_ClearSendsOneTransferOfOne :
    nextIs (exec .clear (readyAt 0xBF#8 .cmd)) (fun t => !t.seq.isEmpty) = true := by decide

theorem witness_GotoSendsTheAddressCommand :
    nextIs (exec (.goto 1#1 255#8) (readyAt 0xBF#8 .cmd)) (fun t => !t.seq.isEmpty) = true := by decide

theorem witness_PutcharSendsItsByteAsData :
    nextIs (exec (.putchar 0xFF#8) (readyAt 0xBF#8 .cmd)) (fun t => !t.seq.isEmpty) = true := by decide

theorem witness_WrcmdSendsItsByteAsCommand :
    nextIs (exec (.wrcmd 0xFF#8) (readyAt 0xBF#8 .cmd)) (fun t => !t.seq.isEmpty) = true := by decide

theorem witness_StringWordsDoTheirParts :
    (readyAt 0x01#8 .cmd).mode = .cmd ∧ (readyAt 0x01#8 .cmd).failed = false ∧
    (readyAt 0x01#8 .cmd).initDone = true ∧ (readyAt 0x21#8 .str).mode = .str ∧
    lineOf .e (readyAt 0x21#8 .str).port = false := by decide

theorem witness_StringDiffersFromCharsByOneSelect : lineOf .e 0x21#8 = false := by decide

theorem witness_WrbyteTransfersHighNibbleFirst :
    nextIs (exec (.wrbyte 0xFF#8) (readyAt 0xBF#8 .cmd)) (fun t => !t.seq.isEmpty) = true := by decide

theorem witness_SelectsWriteAndSettle :
    nextIs (exec .selcmd (readyAt 0xFF#8 .cmd)) (fun t => !t.seq.isEmpty) = true ∧
    nextIs (exec .seldata (readyAt 0x00#8 .cmd)) (fun t => !t.seq.isEmpty) = true := by decide

theorem witness_ClockPulsesEnableOnce :
    nextIs (exec .clock (readyAt 0xBF#8 .cmd)) (fun t => !t.seq.isEmpty) = true := by decide

theorem witness_DelaysAreOneWait :
    State.reset.mode = .cmd ∧ State.reset.failed = false ∧
    nextIs (exec (.delayus 0#24) State.reset) (fun t => decide (t.seq = [.wait 0#64])) = true := by decide

theorem witness_RegisterSelectAfterEachCommand :
    (readyAt 0xFF#8 .cmd).mode = .cmd ∧ (readyAt 0xFF#8 .cmd).failed = false ∧
    (readyAt 0xFF#8 .cmd).initDone = true := by decide

theorem witness_LineOperationsPreserveOtherBits :
    (∀ op ∈ [MicroOp.set .e, .set .rs, .clr .rw, .clr .e, .nib 0xF#4],
      nextMove (performing [op] 0xA5#8) = .core ∧ (performing [op] 0xA5#8).seq = op :: []) ∧
    (performing [] 0xA5#8).inReset = false ∧ (performing [] 0xA5#8).failed = false := by decide

theorem witness_WaitRunsTheTimerHandshake :
    let idle := performing [.wait 0#64] 0x01#8
    let holding := { polling 0#64 [] with script := [.core] }
    nextMove idle = .core ∧ idle.dlState = .idle ∧ idle.inReset = false ∧ idle.failed = false ∧
    nextMove holding = .core ∧ holding.dlState = .armed ∧ holding.timer.expired = false ∧
    holding.seq = .wait 0#64 :: [] ∧ nextMove polled = .core ∧ polled.dlState = .armed ∧
    polled.timer.expired = true ∧ polled.seq = .wait 125#64 :: [] := by decide

theorem witness_DelayEventMeansTheCountPassed :
    ∃ t, Inv polled ∧ step polled = .next t ∧ t.trace = polled.trace ++ [.t 125#64] :=
  ⟨_, polled_inv, rfl, rfl⟩

theorem witness_UnexpiredTimerHoldsTheCore :
    let s := { polling 125#64 [] with script := [.core, .ticks 1000, .offer 0x02000000#32, .periph false] }
    (∀ m ∈ [Move.core, .ticks 1000, .offer 0x02000000#32, .periph false],
      m = .core ∨ (∃ n, m = .ticks n) ∨ (∃ w, m = .offer w) ∨ (∃ b, m = .periph b)) ∧
    s.script = [.core, .ticks 1000, .offer 0x02000000#32, .periph false] ++ [] ∧ awaitsTimer s = true ∧ s.inReset = false ∧
    s.failed = false := by
  simp only [List.mem_cons, List.not_mem_nil, or_false]
  exact ⟨by rintro m (rfl | rfl | rfl | rfl) <;> simp, rfl, rfl, rfl, rfl⟩

theorem witness_NoMoveChangesThePromisedTrace :
    ∃ t, pulsing.inReset = false ∧ nextMove pulsing ≠ .rst ∧ pulsing.seq ≠ [] ∧ step pulsing = .next t :=
  ⟨_, rfl, by decide, by decide, rfl⟩

theorem witness_MarkSetsInitDone :
    nextMove endingInit = .core ∧ endingInit.inReset = false ∧ endingInit.seq = .mark true :: [] ∧
    nextMove startingInit = .core ∧ startingInit.inReset = false ∧
    startingInit.seq = .mark false :: startingInit.seq.tail := by decide

/-- The host offers one word before the expiry, or after the first poll. -/
theorem witness_RunResultIsIndependentOfTheTimer :
    ∃ t₁ t₂ : State, (polling 125#64 []).inReset = false ∧
      (∀ m ∈ [Move.offer 0#32, .ticks 7, .expire, .core, .core],
        m = .core ∨ (∃ n, m = .ticks n) ∨ m = .expire ∨ (∃ w, m = .offer w)) ∧
      (∀ m ∈ [Move.core, .offer 0#32, .core],
        m = .core ∨ (∃ n, m = .ticks n) ∨ m = .expire ∨ (∃ w, m = .offer w)) ∧
      wordsToCome [.offer 0#32, .ticks 7, .expire, .core, .core] =
        wordsToCome [.core, .offer 0#32, .core] ∧
      Sys2Proof.core.run 5 { polling 125#64 [] with
        script := [.offer 0#32, .ticks 7, .expire, .core, .core]
        timer := { count := 125#64, run := true, expired := false } } = .next t₁ ∧ RunOver t₁ ∧
      Sys2Proof.core.run 6 { polling 125#64 [] with
        script := [.core, .offer 0#32, .core]
        timer := { count := 3#64, run := true, expired := false } } = .next t₂ ∧ RunOver t₂ := by
  refine ⟨_, _, rfl, ?_, ?_, rfl, rfl, ⟨rfl, rfl, rfl⟩, rfl, ⟨rfl, rfl, rfl⟩⟩ <;>
    simp only [List.mem_cons, List.not_mem_nil, or_false]
  · rintro m (rfl | rfl | rfl | rfl | rfl) <;> simp
  · rintro m (rfl | rfl | rfl) <;> simp

theorem witness_SequencerDrainsToThePromisedTrace :
    (Inv (polling 125#64 []) ∧ (polling 125#64 []).inReset = false ∧ (polling 125#64 []).script = [] ∧
      ∀ b, MicroOp.mark b ∉ (polling 125#64 []).seq) ∧
    (Inv startingInit ∧ startingInit.inReset = false ∧ startingInit.script = [] ∧
      MicroOp.mark true ∈ startingInit.seq) :=
  ⟨⟨polling_inv, rfl, rfl, by decide⟩, ⟨startingInit_inv, rfl, rfl, by decide⟩⟩

theorem witness_WordsLeaveTheStreamOnlyWhenReady : ∃ t, step presented = .next t ∧ t.offered = [] :=
  ⟨_, rfl, rfl⟩

theorem witness_IdleCoreHoldsItsState :
    State.reset.script = [] ∧ State.reset.inReset = false ∧ State.reset.seq = [] ∧ State.reset.offered = [] := by
  decide

theorem witness_SecondWriterIsRefused :
    nextMove { State.reset with script := [.foreignPort 0xFF#8] } = .foreignPort 0xFF#8 ∧
    nextMove { State.reset with script := [.foreignTimer] } = .foreignTimer := by decide

theorem witness_ForbiddenDrivesAreRefused :
    let failing := { performing [.wait 0#64] 0x00#8 with failed := true }
    let driving := performing [.set .test] 0x00#8
    let stopped := { State.reset with script := [.expire] }
    nextMove failing = .core ∧ failing.inReset = false ∧ failing.failed = true ∧
    failing.seq = .wait 0#64 :: [] ∧ (∀ b, MicroOp.wait 0#64 ≠ .mark b) ∧
    nextMove driving = .core ∧ driving.inReset = false ∧ driving.failed = false ∧
    driving.seq = .set .test :: [] ∧ nextMove stopped = .expire ∧ stopped.timer.run = false := by
  decide

theorem witness_ResetEdgeAbandonsTheCommand : nextMove { pulsing with script := [.rst] } = .rst := by decide

theorem witness_PeriphOkIsSampledOnce :
    nextMove { State.reset with inReset := true, periphOk := false } = .core ∧
    (∃ t, failedCore.inReset = false ∧ nextMove failedCore ≠ .rst ∧ step failedCore = .next t) :=
  ⟨by decide, _, rfl, by decide, rfl⟩

theorem witness_EveryStepKeepsTheInvariant : ∃ t, Inv pulsing ∧ step pulsing = .next t := ⟨_, pulsing_inv, rfl⟩

theorem witness_ReachedStatesKeepTheLinesLow :
    (∃ t : State, Sys2Proof.core.run 2
      { State.launch ticksPerUsDefault true with offered := [0x01000000#32], script := [] } = .next t ∧
      busy t = true) ∧
    (∃ t : State, Sys2Proof.core.run 1
      { State.launch ticksPerUsDefault true with offered := [], script := [] } = .next t ∧ busy t = false) ∧
    (∃ t : State, Sys2Proof.core.run 1
      { State.launch ticksPerUsDefault false with offered := [0x02000000#32], script := [.core] } = .next t ∧
      t.failed = true) :=
  ⟨⟨_, rfl, rfl⟩, ⟨_, rfl, rfl⟩, ⟨_, rfl, rfl⟩⟩

theorem witness_LawfulMovesNeverStopTheMachine : Inv pulsing ∧ lawfulMove pulsing = true :=
  ⟨pulsing_inv, by decide⟩

theorem witness_ReadyComesOnlyFromACompleteInit :
    (∃ t, Inv endingInit ∧ step endingInit = .next t ∧ endingInit.initDone = false ∧ t.initDone = true) ∧
    (∃ t, Inv startingInit ∧ step startingInit = .next t ∧ startingInit.initDone = true ∧ t.initDone = false) ∧
    (∃ t, (readyAt 0x01#8 .cmd).mode = .cmd ∧ Instr.clock ≠ .init ∧ (∀ d, Instr.clock ≠ .delayus d) ∧
      (∀ d, Instr.clock ≠ .delayms d) ∧ exec .clock (readyAt 0x01#8 .cmd) = .next t ∧
      t.seq ≠ (readyAt 0x01#8 .cmd).seq) :=
  ⟨⟨_, endingInit_inv, rfl, rfl, rfl⟩, ⟨_, startingInit_inv, rfl, rfl, rfl⟩,
   ⟨_, rfl, by simp, by simp, by simp, rfl, by decide⟩⟩

theorem witness_OnlyResetClearsErrors :
    let s := { failedCore with
      offered := [0x00000000#32], errPrecond := true, errIllegal := true, lastErr := .illegalCommand }
    ∃ t, s.inReset = false ∧ nextMove s ≠ .rst ∧ step s = .next t ∧ s.failed = true :=
  ⟨_, rfl, by decide, rfl, rfl⟩

theorem witness_FailedCoreIsSilent :
    ∃ t, Inv failedCore ∧ failedCore.failed = true ∧ nextMove failedCore = .core ∧ nextMove failedCore ≠ .rst ∧
      step failedCore = .next t := ⟨_, failedCore_inv, rfl, by decide, by decide, rfl⟩

theorem witness_NoStepChangesTheParameters :
    ∃ t, step { State.reset with script := [.periph false] } = .next t ∧ t.periphOk ≠ State.reset.periphOk :=
  ⟨_, rfl, by decide⟩

theorem witness_NibblePhaseCountsFallingEdges :
    (∃ t, Inv pulsing ∧ step pulsing = .next t ∧ pulsing.phase ≠ .unknown ∧ t.phase ≠ .unknown ∧
      fallingEdge pulsing.port t.port = true) ∧
    (∃ t, Inv polled ∧ step polled = .next t ∧ polled.phase ≠ .unknown ∧ t.phase ≠ .unknown ∧
      fallingEdge polled.port t.port = false) :=
  ⟨⟨_, pulsing_inv, rfl, by decide, by decide, by decide⟩, ⟨_, polled_inv, rfl, by decide, by decide, by decide⟩⟩

end Sys2Proof.Tests
end

section
/-! ### The launch parameters (00_scope.md R8): the core's own operations keep both, agent by agent -/

namespace Sys2Proof.Machine

/-- The meaning of an instruction keeps the parameters. -/
theorem exec_keeps_parameters {i : Instr} {s t : State} (h : exec i s = .next t) :
    t.ticksPerUs = s.ticksPerUs ∧ t.periphOk = s.periphOk := by
  obtain ⟨t', ht', hkind⟩ := exec_cases i s
  obtain rfl : t' = t := Host.Outcome.next.inj (ht'.symm.trans h)
  rcases hkind with rfl | ⟨m, -, rfl⟩ | ⟨m, -, -, -, -, rfl⟩ | ⟨-, -, rfl⟩ | ⟨m, -, -, -, rfl⟩ | ⟨b, -, rfl⟩ <;> simp

/-- Accepting a word, legal or not, keeps the parameters. -/
theorem acceptWord_keeps_parameters {w : Word} {s t : State} (h : acceptWord w s = .next t) :
    t.ticksPerUs = s.ticksPerUs ∧ t.periphOk = s.periphOk := by
  unfold acceptWord at h
  split at h
  · exact exec_keeps_parameters h
  · cases h; simp

/-- One core move on a WAIT keeps the parameters. -/
theorem waitStep_keeps_parameters (d : Ticks) (s : State) :
    (waitStep d s).ticksPerUs = s.ticksPerUs ∧ (waitStep d s).periphOk = s.periphOk := by
  rcases waitStep_cases d s with ⟨-, h⟩ | ⟨-, -, h⟩ | ⟨-, -, h⟩ <;> simp [h]

/-- Performing the head of SEQ keeps the parameters. -/
theorem microStep_keeps_parameters {op : MicroOp} {s t : State} (h : microStep op s = .next t) :
    t.ticksPerUs = s.ticksPerUs ∧ t.periphOk = s.periphOk := by
  rcases microStep_next h with ⟨l, -, -, -, rfl⟩ | ⟨l, -, -, rfl⟩ | ⟨n, -, -, rfl⟩ | ⟨d, -, -, rfl⟩ | ⟨b, -, rfl⟩
  · simp
  · simp
  · simp
  · exact waitStep_keeps_parameters d s
  · simp

/-- The core's move keeps the parameters: it only reads `periph_ok`, at the sampling edge. -/
theorem coreMove_keeps_parameters {s t : State} (h : coreMove s = .next t) :
    t.ticksPerUs = s.ticksPerUs ∧ t.periphOk = s.periphOk := by
  rcases coreMove_cases s with ⟨-, hc⟩ | ⟨-, op, ops, -, hc⟩ | ⟨-, -, w, ws, -, hc⟩ | ⟨-, -, -, hc⟩ <;> rw [hc] at h
  · cases h; simp
  · exact microStep_keeps_parameters h
  · exact acceptWord_keeps_parameters (s := { s with offered := ws }) h
  · cases h; simp

end Sys2Proof.Machine

namespace Sys2Proof.Proofs

open Sys2Proof.Machine

/-- Settles O54, agent by agent: the core's move keeps both parameters, and of the other moves only the platform's
`periph` writes `periph_ok`. -/
theorem noStepChangesTheParameters : Obligations.NoStepChangesTheParameters := by
  intro s t h
  rcases step_next h with
    ⟨-, hcore⟩ | ⟨n, -, rfl⟩ | ⟨-, -, rfl⟩ | ⟨w, -, rfl⟩ | ⟨-, rfl⟩ | ⟨ok, hm, rfl⟩
  · obtain ⟨hrate, hok⟩ := coreMove_keeps_parameters hcore
    exact ⟨hrate, .inl hok⟩
  · exact ⟨rfl, .inl rfl⟩
  · exact ⟨rfl, .inl rfl⟩
  · exact ⟨rfl, .inl rfl⟩
  · exact ⟨rfl, .inl rfl⟩
  · exact ⟨rfl, .inr hm⟩

end Sys2Proof.Proofs
end

section
/-! ### What SEQ holds: the marks and the enable line of one word's micro-operations (44_protocol_ops.md R160, R172) -/

namespace Sys2Proof.Machine

open Sys2Proof.Config

/-- A byte transfer holds no mark. -/
@[simp] theorem mark_notMem_writeByteOps (rate : TickRate) (v : Byte) (b : Bool) :
    MicroOp.mark b ∉ writeByteOps rate v := by
  simp [writeByteOps, nibbleOps, clockOps]

/-- A display clear holds no mark. -/
@[simp] theorem mark_notMem_clearOps (rate : TickRate) (b : Bool) : MicroOp.mark b ∉ clearOps rate := by
  simp [clearOps, selectCmdOps]

/-- Only INIT's micro-operations hold a mark. -/
theorem mark_notMem_expand {i : Instr} (hi : i ≠ .init) (rate : TickRate) (b : Bool) :
    MicroOp.mark b ∉ expand rate i := by
  cases i with
  | init => exact absurd rfl hi
  | _ => simp [expand, selectCmdOps, selectDataOps, clockOps]

/-- MARK(1) occurs at most once in a word's micro-operations: INIT's last. -/
theorem count_mark_true_expand (rate : TickRate) (i : Instr) : (expand rate i).count (.mark true) ≤ 1 := by
  by_cases hi : i = .init
  · subst hi
    have hwrite : ∀ v, (writeByteOps rate v).count (.mark true) = 0 := fun v => List.count_eq_zero.2 (by simp)
    have hclear : (clearOps rate).count (.mark true) = 0 := List.count_eq_zero.2 (by simp)
    simp [expand, initOps, clockOps, hwrite, hclear, List.count_append]
  · rw [List.count_eq_zero.2 (mark_notMem_expand hi rate true)]
    exact Nat.zero_le 1

/-- INIT's first micro-operation is MARK(0). -/
theorem expand_init_head {rate : TickRate} {op : MicroOp} {ops : List MicroOp}
    (h : expand rate .init = op :: ops) : op = .mark false :=
  (List.cons.inj h).1.symm

/-- An enable pulse ends with E at 0, wherever it was: it drives E down. -/
@[simp] theorem clockOps_eLow (rate : TickRate) (p : Byte) : lineOf .e (promisedPort (clockOps rate) p) = false := by
  simp [clockOps]

/-- A byte transfer ends with E at 0. -/
@[simp] theorem writeByteOps_eLow (rate : TickRate) (v p : Byte) :
    lineOf .e (promisedPort (writeByteOps rate v) p) = false := by
  simp [writeByteOps, nibbleOps]

/-- A display clear ends with E at 0. -/
@[simp] theorem clearOps_eLow (rate : TickRate) (p : Byte) : lineOf .e (promisedPort (clearOps rate) p) = false := by
  simp [clearOps]

/-- A mark at the end leaves the port as it was. -/
theorem promisedPort_append_mark (ops : List MicroOp) (b : Bool) (p : Byte) :
    promisedPort (ops ++ [MicroOp.mark b]) p = promisedPort ops p := by
  simp

/-- INIT ends with E at 0: it ends with a display clear and a mark. -/
@[simp] theorem initOps_eLow (rate : TickRate) (p : Byte) : lineOf .e (promisedPort (initOps rate) p) = false := by
  unfold initOps
  rw [promisedPort_append_mark, promisedPort_append]
  exact clearOps_eLow rate _

/-- From E at 0, every word's micro-operations end with E at 0 (10_state.md R40 (c)). -/
theorem expand_eLow (rate : TickRate) (i : Instr) {p : Byte} (h : lineOf .e p = false) :
    lineOf .e (promisedPort (expand rate i) p) = false := by
  cases i <;> simp [expand, selectCmdOps, selectDataOps, h]

end Sys2Proof.Machine
end

section
/-! ### The invariant, operation by operation (10_state.md R36, R37, R40; 60_exceptions.md R200, R203) -/

namespace Sys2Proof.Machine

open Sys2Proof.Config

variable {s t : State}

/-! What the invariant says of a SEQ that is being performed. -/

/-- While a micro-operation waits in SEQ the core has not failed. -/
theorem Inv.not_failed_of_seq {op : MicroOp} {ops : List MicroOp} (h : Inv s) (hs : s.seq = op :: ops) :
    s.failed = false := by
  refine eq_false_of_ne_true fun hf => ?_
  obtain ⟨-, -, hseq, -⟩ := h.failedQuiet hf
  simp [hs] at hseq

/-- DL_ARMED has a WAIT at the head of SEQ. -/
theorem Inv.not_armed_of_seq (h : Inv s) (hs : ∀ d ops, s.seq ≠ .wait d :: ops) : s.dlState ≠ .armed := by
  intro ha
  obtain ⟨d, ops, hseq, -, -⟩ := h.armedWaits ha
  exact hs d ops hseq

/-- What is left of SEQ after its head is still what is left of one word's micro-operations. -/
theorem Inv.seqOrigin_tail (h : Inv s) : ∃ i k, s.seq.tail = (expand s.ticksPerUs i).drop k := by
  obtain ⟨i, k, hseq⟩ := h.seqOrigin
  exact ⟨i, k + 1, by rw [hseq, List.tail_drop]⟩

/-- A second MARK(1) never follows a MARK(1). -/
theorem Inv.mark_true_notMem_tail {ops : List MicroOp} (h : Inv s) (hs : s.seq = .mark true :: ops) :
    MicroOp.mark true ∉ ops := by
  intro hmem
  obtain ⟨i, k, hseq⟩ := h.seqOrigin
  have hle : (MicroOp.mark true :: ops).count (.mark true) ≤ 1 := by
    rw [← hs, hseq]
    exact ((List.drop_sublist k _).count_le _).trans (count_mark_true_expand _ i)
  have hpos := List.count_pos_iff.2 hmem
  simp at hle
  omega

/-- With MARK(1) still to come after the head of SEQ, the head is INIT's MARK(0) or INIT is past it. -/
theorem Inv.unready_before_mark_true {op : MicroOp} {ops : List MicroOp} (h : Inv s) (hs : s.seq = op :: ops)
    (hmem : MicroOp.mark true ∈ ops) : op = .mark false ∨ s.initDone = false := by
  rcases h.initUnready (by rw [hs]; exact .tail _ hmem) with hinit | hd
  · exact .inl (expand_init_head (hinit.symm.trans hs))
  · exact .inr hd

/-! The moves of the other agents and the edges of reset. -/

/-- The invariant does not read the moves to come. -/
theorem takeMove_keeps_inv (h : Inv s) : Inv (takeMove s) := { h with }

/-- The invariant does not read the host's words. -/
theorem offer_keeps_inv (h : Inv s) (ws : List Word) : Inv { s with offered := ws } := { h with }

/-- The invariant does not read the level of `periph_ok`. -/
theorem periph_keeps_inv (h : Inv s) (ok : Bool) : Inv { s with periphOk := ok } := { h with }

/-- Ticks neither start nor stop the timer. -/
@[simp] theorem timerTicks_run (n : Nat) (tm : Timer) : (timerTicks n tm).run = tm.run := by
  unfold timerTicks
  split <;> rfl

/-- Ticks alone never raise or clear the flag (40_timed_delay.md R113 (a)). -/
@[simp] theorem timerTicks_expired (n : Nat) (tm : Timer) : (timerTicks n tm).expired = tm.expired := by
  unfold timerTicks
  split <;> rfl

/-- Ticks leave a count of 0 at 0. -/
theorem timerTicks_count_zero {tm : Timer} (h : tm.count = 0#64) (n : Nat) : (timerTicks n tm).count = 0#64 := by
  unfold timerTicks
  split <;> simp [h]

/-- Ticks leave a started timer started, and a count of 0 at 0. -/
theorem ticks_keep_inv (h : Inv s) (n : Nat) : Inv { s with timer := timerTicks n s.timer } :=
  { h with
    armedWaits := fun ha => by
      obtain ⟨d, ops, hseq, hd, hrun⟩ := h.armedWaits ha
      exact ⟨d, ops, hseq, hd, by simpa using hrun⟩
    expiredDone := fun he => timerTicks_count_zero (h.expiredDone (by simpa using he)) n }

/-- Expiry leaves the timer running, with the count at 0. -/
theorem expire_keeps_inv (h : Inv s) : Inv { s with timer := timerExpire s.timer } :=
  { h with expiredDone := fun _ => rfl }

/-- A reset edge establishes everything but the timer's part of the invariant, which it keeps. -/
theorem resetEdge_keeps_inv (h : Inv s) : Inv (resetEdge s) where
  rwLow := by simp [portReset, lineOf]
  testLow := by simp [portReset, lineOf]
  eLow := by simp [portReset, lineOf]
  failedQuiet := by simp
  seqOrigin := ⟨.payloadEnd, 0, rfl⟩
  initUnready := by simp
  armedWaits := by simp
  expiredDone := h.expiredDone
  resetQuiet := by simp [portReset]
  failedRecords := by simp
  lastErrAgrees := ⟨rfl, rfl, rfl⟩
  phaseKnown := by simp

/-- The sampling edge finds the reset values (70_reset_and_hazards.md R240), so a core that fails there is quiet. -/
theorem sampleEdge_keeps_inv (h : Inv s) (hr : s.inReset = true) : Inv (sampleEdge s) := by
  obtain ⟨hport, htrace, hseq, hdone, -, hpre, hill, -, hmode⟩ := h.resetQuiet hr
  exact { h with
    failedQuiet := fun _ => ⟨hport, htrace, hseq, by simp [hmode]⟩
    resetQuiet := by simp
    failedRecords := fun hf => ⟨hdone, hpre, .inl (by simpa using hf)⟩
    lastErrAgrees := by cases hok : s.periphOk <;> simp [sampleEdge, hok, hpre, hill] }

/-! Performing the head of SEQ, out of reset. -/

/-- A latched nibble changes the phase only where it is known. -/
@[simp] theorem afterLatch_eq_unknown (p : NibblePhase) : p.afterLatch = .unknown ↔ p = .unknown := by
  cases p <;> simp [NibblePhase.afterLatch]

/-- One write to the port that leaves RW and TEST low and is what the head of SEQ promises. -/
theorem portWrite_keeps_inv {op : MicroOp} {ops : List MicroOp} (h : Inv s) (hr : s.inReset = false)
    (hs : s.seq = op :: ops) (hwait : ∀ d, op ≠ .wait d) (hmark : ∀ b, op ≠ .mark b)
    (hrw : lineOf .rw (opPort op s.port) = false) (htest : lineOf .test (opPort op s.port) = false) :
    Inv (popSeq (portWrite (opPort op s.port) s)) where
  rwLow := hrw
  testLow := htest
  eLow := by simpa [hs] using h.eLow
  failedQuiet := by simp [h.not_failed_of_seq hs]
  seqOrigin := h.seqOrigin_tail
  initUnready := fun hmem =>
    .inr ((h.unready_before_mark_true hs (by simpa [hs] using hmem)).resolve_left (hmark false))
  armedWaits := fun ha => absurd ha (h.not_armed_of_seq (by simp [hs, hwait]))
  expiredDone := h.expiredDone
  resetQuiet := by simp [hr]
  failedRecords := h.failedRecords
  lastErrAgrees := h.lastErrAgrees
  phaseKnown := by
    simp only [popSeq_phase, portWrite_phase, popSeq_initDone, portWrite_initDone]
    split <;> simp [h.phaseKnown]

/-- One core move on a WAIT at the head of SEQ: arm, hold, or finish. -/
theorem waitStep_keeps_inv {d : Ticks} {ops : List MicroOp} (h : Inv s) (hr : s.inReset = false)
    (hs : s.seq = .wait d :: ops) : Inv (waitStep d s) := by
  rcases waitStep_cases d s with ⟨-, hw⟩ | ⟨-, -, hw⟩ | ⟨-, -, hw⟩ <;> rw [hw]
  · exact { h with
      armedWaits := fun _ => ⟨d, ops, hs, rfl, rfl⟩
      expiredDone := by simp [timerStart] }
  · exact h
  · exact { h with
      eLow := by simpa [hs] using h.eLow
      failedQuiet := by simp [h.not_failed_of_seq hs]
      seqOrigin := h.seqOrigin_tail
      initUnready := fun hmem =>
        .inr ((h.unready_before_mark_true hs (by simpa [hs] using hmem)).resolve_left (by simp))
      armedWaits := by simp
      resetQuiet := by simp [hr] }

/-- MARK(b) at the head of SEQ. -/
theorem markDone_keeps_inv {b : Bool} {ops : List MicroOp} (h : Inv s) (hr : s.inReset = false)
    (hs : s.seq = .mark b :: ops) : Inv (popSeq (markDone b s)) :=
  { h with
    eLow := by simpa [hs] using h.eLow
    failedQuiet := by simp [h.not_failed_of_seq hs]
    seqOrigin := h.seqOrigin_tail
    initUnready := fun hmem => by
      cases b with
      | false => exact .inr rfl
      | true => exact absurd (by simpa [hs] using hmem) (h.mark_true_notMem_tail hs)
    armedWaits := fun ha => absurd ha (h.not_armed_of_seq (by simp [hs]))
    resetQuiet := by simp [hr]
    failedRecords := by simp [h.not_failed_of_seq hs]
    phaseKnown := by cases b <;> simp }

/-- Performing the head of SEQ keeps the invariant. -/
theorem microStep_keeps_inv {op : MicroOp} {ops : List MicroOp} (h : Inv s) (hr : s.inReset = false)
    (hs : s.seq = op :: ops) (hstep : microStep op s = .next t) : Inv t := by
  rcases microStep_next hstep with
    ⟨l, rfl, -, hl, rfl⟩ | ⟨l, rfl, -, rfl⟩ | ⟨n, rfl, -, rfl⟩ | ⟨d, rfl, -, rfl⟩ | ⟨b, rfl, rfl⟩
  · have hrw : l ≠ .rw := by rintro rfl; cases hl
    have htest : l ≠ .test := by rintro rfl; cases hl
    exact portWrite_keeps_inv h hr hs (by simp) (by simp)
      (by simp [h.rwLow, hrw.symm]) (by simp [h.testLow, htest.symm])
  · exact portWrite_keeps_inv h hr hs (by simp) (by simp) (by simp [h.rwLow]) (by simp [h.testLow])
  · exact portWrite_keeps_inv h hr hs (by simp) (by simp) (by simp [h.rwLow]) (by simp [h.testLow])
  · exact waitStep_keeps_inv h hr hs
  · exact markDone_keeps_inv h hr hs

/-! Accepting a word, out of reset with SEQ empty. -/

/-- A change of MODE to anything but STR. -/
theorem mode_keeps_inv {m : Mode} (h : Inv s) (hr : s.inReset = false) (hm : m ≠ .str) :
    Inv { s with mode := m } :=
  { h with
    failedQuiet := fun hf => by
      obtain ⟨hport, htrace, hseq, -⟩ := h.failedQuiet hf
      exact ⟨hport, htrace, hseq, hm⟩
    resetQuiet := by simp [hr] }

/-- Recording an illegal word, whether or not the core has failed (60_exceptions.md R201). -/
theorem raiseIllegal_keeps_inv (h : Inv s) (hr : s.inReset = false) (w : Word) : Inv (raiseIllegal w s) :=
  { h with
    resetQuiet := by simp [hr]
    failedRecords := fun hf => by
      obtain ⟨hdone, hpre, -⟩ := h.failedRecords hf
      exact ⟨hdone, hpre, .inr rfl⟩
    lastErrAgrees := rfl }

/-- Recording a precondition violation, in a core that has not failed. -/
theorem raisePrecondition_keeps_inv (h : Inv s) (hr : s.inReset = false) (hf : s.failed = false) (w : Word) :
    Inv (raisePrecondition w s) :=
  { h with
    resetQuiet := by simp [hr]
    failedRecords := by simp [hf]
    lastErrAgrees := rfl }

/-- SEQ takes one word's micro-operations, in a core that has not failed. -/
theorem expand_keeps_inv (h : Inv s) (hr : s.inReset = false) (hf : s.failed = false) (hs : s.seq = [])
    (i : Instr) (m : Mode) : Inv { s with seq := expand s.ticksPerUs i, mode := m } :=
  { h with
    eLow := expand_eLow _ i (by simpa [hs] using h.eLow)
    failedQuiet := by simp [hf]
    seqOrigin := ⟨i, 0, rfl⟩
    initUnready := fun hmem => by
      by_cases hi : i = .init
      · exact .inl (by rw [hi])
      · exact absurd hmem (mark_notMem_expand hi _ true)
    armedWaits := fun ha => absurd ha (h.not_armed_of_seq (by simp [hs]))
    resetQuiet := by simp [hr] }

/-- The meaning of an instruction keeps the invariant. -/
theorem exec_keeps_inv {i : Instr} (h : Inv s) (hr : s.inReset = false) (hs : s.seq = [])
    (hexec : exec i s = .next t) : Inv t := by
  obtain ⟨t', ht', hkind⟩ := exec_cases i s
  obtain rfl : t' = t := Host.Outcome.next.inj (ht'.symm.trans hexec)
  rcases hkind with
    rfl | ⟨m, hm, rfl⟩ | ⟨m, hm, hf, -, -, rfl⟩ | ⟨-, -, rfl⟩ | ⟨m, hf, -, -, rfl⟩ | ⟨b, hstr, rfl⟩
  · exact h
  · exact mode_keeps_inv h hr hm
  · exact raisePrecondition_keeps_inv (mode_keeps_inv h hr hm) hr hf _
  · exact raiseIllegal_keeps_inv h hr _
  · exact expand_keeps_inv h hr hf hs i m
  · have hf : s.failed = false := eq_false_of_ne_true fun hf => by
      obtain ⟨-, -, -, hmode⟩ := h.failedQuiet hf
      exact hmode hstr
    exact expand_keeps_inv h hr hf hs (.payloadByte b) s.mode

/-- Accepting a word, legal or not, keeps the invariant. -/
theorem acceptWord_keeps_inv {w : Word} (h : Inv s) (hr : s.inReset = false) (hs : s.seq = [])
    (haccept : acceptWord w s = .next t) : Inv t := by
  unfold acceptWord at haccept
  split at haccept
  · exact exec_keeps_inv h hr hs haccept
  · cases haccept
    exact raiseIllegal_keeps_inv h hr w

/-- The core's move keeps the invariant. -/
theorem coreMove_keeps_inv (h : Inv s) (hmove : coreMove s = .next t) : Inv t := by
  rcases coreMove_cases s with
    ⟨hr, hc⟩ | ⟨hr, op, ops, hs, hc⟩ | ⟨hr, hs, w, ws, -, hc⟩ | ⟨-, -, -, hc⟩ <;> rw [hc] at hmove
  · cases hmove
    exact sampleEdge_keeps_inv h hr
  · exact microStep_keeps_inv h hr hs hmove
  · exact acceptWord_keeps_inv (offer_keeps_inv h ws) hr hs hmove
  · cases hmove
    exact h

end Sys2Proof.Machine

namespace Sys2Proof.Proofs

open Sys2Proof.Machine

/-- Settles O48, agent by agent: a step is a move on the state with the scripted move taken, and the core's own move
keeps the invariant through the sampling edge, the head of SEQ and the acceptance of a word. -/
theorem everyStepKeepsTheInvariant : Obligations.EveryStepKeepsTheInvariant := by
  intro s t hinv hstep
  have h := takeMove_keeps_inv hinv
  rcases step_next hstep with
    ⟨-, hcore⟩ | ⟨n, -, rfl⟩ | ⟨-, -, rfl⟩ | ⟨w, -, rfl⟩ | ⟨-, rfl⟩ | ⟨ok, -, rfl⟩
  · exact coreMove_keeps_inv h hcore
  · exact ticks_keep_inv h n
  · exact expire_keeps_inv h
  · exact offer_keeps_inv h _
  · exact resetEdge_keeps_inv h
  · exact periph_keeps_inv h ok

end Sys2Proof.Proofs
end

section
/-! ### Launches, runs and FAILED (10_state.md R28, R40, R41; 70_reset_and_hazards.md R240, R265) -/

namespace Sys2Proof.Machine

open Sys2Proof.Config

/-- Every launch meets the invariant: its port and SEQ are those of R41, and FAILED and LAST_ERR both follow
`periph_ok`. -/
theorem launch_inv (rate : TickRate) (ok : Bool) : Inv (State.launch rate ok) where
  rwLow := by simp [State.launch, portReset, lineOf]
  testLow := by simp [State.launch, portReset, lineOf]
  eLow := by simp [State.launch, portReset, lineOf]
  failedQuiet := by simp [State.launch, portReset]
  seqOrigin := ⟨.payloadEnd, 0, rfl⟩
  initUnready := by simp [State.launch]
  armedWaits := by simp [State.launch]
  expiredDone := by simp [State.launch]
  resetQuiet := by simp [State.launch]
  failedRecords := by cases ok <;> simp [State.launch]
  lastErrAgrees := by cases ok <;> simp [State.launch]
  phaseKnown := by simp [State.launch]

/-- A launch with words offered and moves scripted meets the invariant, which reads neither. -/
theorem launch_with_inv (rate : TickRate) (ok : Bool) (words : List Word) (moves : List Move) :
    Inv { State.launch rate ok with offered := words, script := moves } :=
  { launch_inv rate ok with }

/-- Every state a run reaches from a state that meets the invariant meets it. -/
theorem run_keeps_inv {k : Nat} {s t : State} (h : Inv s) (hrun : Sys2Proof.core.run k s = .next t) : Inv t :=
  run_keeps Proofs.everyStepKeepsTheInvariant h hrun

/-- STATUS.BUSY says that SEQ is not empty (10_state.md R26). -/
theorem busy_eq (s : State) : busy s = decide (s.seq ≠ []) := by
  unfold busy
  cases s.seq <;> rfl

/-- BUSY is 0 exactly with SEQ empty. -/
theorem busy_eq_false (s : State) : busy s = false ↔ s.seq = [] := by
  simp [busy_eq]

/-- The meaning of an instruction keeps FAILED. -/
theorem exec_keeps_failed {i : Instr} {s t : State} (h : exec i s = .next t) : t.failed = s.failed := by
  obtain ⟨t', ht', hkind⟩ := exec_cases i s
  obtain rfl : t' = t := Host.Outcome.next.inj (ht'.symm.trans h)
  rcases hkind with rfl | ⟨m, -, rfl⟩ | ⟨m, -, -, -, -, rfl⟩ | ⟨-, -, rfl⟩ | ⟨m, -, -, -, rfl⟩ | ⟨b, -, rfl⟩ <;> rfl

/-- Accepting a word, legal or not, keeps FAILED. -/
theorem acceptWord_keeps_failed {w : Word} {s t : State} (h : acceptWord w s = .next t) : t.failed = s.failed := by
  unfold acceptWord at h
  split at h
  · exact exec_keeps_failed h
  · cases h
    rfl

/-- Performing the head of SEQ keeps FAILED. -/
theorem microStep_keeps_failed {op : MicroOp} {s t : State} (h : microStep op s = .next t) :
    t.failed = s.failed := by
  rcases microStep_next h with ⟨l, -, -, -, rfl⟩ | ⟨l, -, -, rfl⟩ | ⟨n, -, -, rfl⟩ | ⟨d, -, -, rfl⟩ | ⟨b, -, rfl⟩
  · rfl
  · rfl
  · rfl
  · rcases waitStep_cases d s with ⟨-, hw⟩ | ⟨-, -, hw⟩ | ⟨-, -, hw⟩ <;> simp [hw]
  · rfl

/-- Out of reset the core's move keeps FAILED (R28: it is sampled once). -/
theorem coreMove_keeps_failed {s t : State} (hr : s.inReset = false) (h : coreMove s = .next t) :
    t.failed = s.failed := by
  rcases coreMove_cases s with
    ⟨hr', -⟩ | ⟨-, op, ops, -, hc⟩ | ⟨-, -, w, ws, -, hc⟩ | ⟨-, -, -, hc⟩
  · simp [hr] at hr'
  · exact microStep_keeps_failed (hc ▸ h)
  · exact acceptWord_keeps_failed (s := { s with offered := ws }) (hc ▸ h)
  · rw [hc] at h
    cases h
    rfl

/-- In reset the core's move is the sampling edge. -/
theorem coreMove_inReset {s : State} (hr : s.inReset = true) : coreMove s = .next (sampleEdge s) := by
  simp [coreMove, hr]

end Sys2Proof.Machine

namespace Sys2Proof.Proofs

open Sys2Proof.Machine

/-- Settles O47: State.reset is a launch. -/
theorem everyLaunchMeetsTheInvariant : Obligations.EveryLaunchMeetsTheInvariant :=
  fun rate ok => ⟨launch_inv rate ok, launch_inv _ true⟩

/-- Settles O49: the invariant holds at every launch and along every run, and R40 (a) to (d) are read off it. -/
theorem reachedStatesKeepTheLinesLow : Obligations.ReachedStatesKeepTheLinesLow := by
  intro rate ok words moves k t hrun
  have h : Inv t := run_keeps_inv (launch_with_inv rate ok words moves) hrun
  refine ⟨h.rwLow, h.testLow, fun hidle => ?_, fun hfailed => ?_⟩
  · have hseq : t.seq = [] := (busy_eq_false t).1 hidle
    simpa [hseq] using h.eLow
  · obtain ⟨hport, htrace, -, -⟩ := h.failedQuiet hfailed
    exact ⟨hport, htrace⟩

/-- Settles O46: in reset the core's move is the sampling edge; out of reset no move but a reset edge writes FAILED. -/
theorem periphOkIsSampledOnce : Obligations.PeriphOkIsSampledOnce := by
  constructor
  · intro s hm hr
    rw [step_core hm, coreMove_inReset (s := takeMove s) hr]
    rfl
  · intro s t hr hm h
    rcases step_next h with
      ⟨-, hcore⟩ | ⟨n, -, rfl⟩ | ⟨-, -, rfl⟩ | ⟨w, -, rfl⟩ | ⟨hrst, -⟩ | ⟨ok, -, rfl⟩
    · exact coreMove_keeps_failed (s := takeMove s) hr hcore
    · rfl
    · rfl
    · rfl
    · exact absurd hrst hm
    · rfl

end Sys2Proof.Proofs
end

section
/-! ### STATUS, the reset values, the marks and the lines (10_state.md R22, R24, R27, R41) -/

namespace Sys2Proof.Machine

open Sys2Proof.Config

/-- Bits 7:0 of STATUS are its one-bit fields, BUSY lowest, and the reserved bit 7 (10_state.md R24, R35). -/
theorem status_flags (s : State) :
    (status s).getLsbD 0 = busy s ∧ (status s).getLsbD 1 = s.initDone ∧ (status s).getLsbD 2 = s.failed ∧
    (status s).getLsbD 3 = s.errPrecond ∧ (status s).getLsbD 4 = s.errIllegal ∧
    (status s).getLsbD 5 = strMode s ∧ (status s).getLsbD 6 = strDiscard s ∧ (status s).getLsbD 7 = false := by
  simp only [status, BitVec.getLsbD_append]
  simp

/-- Bits 9:8 of STATUS are the code of LAST_ERR (R33). -/
theorem status_lastErr (s : State) : (status s).extractLsb' 8 2 = s.lastErr.code := by
  apply BitVec.eq_of_getLsbD_eq
  intro i hi
  simp (disch := omega) only [status, BitVec.getLsbD_extractLsb', BitVec.getLsbD_append, if_neg, if_pos, hi,
    decide_true, Bool.true_and]
  congr 1
  omega

/-- Bits 31:10 of STATUS are reserved and read 0 (R35). -/
theorem status_reserved (s : State) : (status s).extractLsb' 10 22 = 0#22 := by
  apply BitVec.eq_of_getLsbD_eq
  intro i hi
  simp (disch := omega) only [status, BitVec.getLsbD_extractLsb', BitVec.getLsbD_append, if_neg,
    BitVec.getLsbD_zero, Bool.and_false]

/-- `cmd_ready` is 1 exactly out of reset with SEQ empty (20_memory.md R51). -/
theorem cmdReady_eq_true (s : State) : cmdReady s = true ↔ s.inReset = false ∧ s.seq = [] := by
  simp [cmdReady, busy_eq]

/-- A falling edge of E: port bit 6 goes from 1 to 0 (20_memory.md R55, 41_enable_clock.md R131). -/
theorem fallingEdge_eq_true (v u : Byte) :
    fallingEdge v u = true ↔ v.getLsbD 6 = true ∧ u.getLsbD 6 = false := by
  simp [fallingEdge, lineOf]

end Sys2Proof.Machine

namespace Sys2Proof.Proofs

open Sys2Proof.Machine Sys2Proof.Config

/-- Settles O1: each value is the one State.launch writes; the reserved bits of STATUS are 0 in every state. -/
theorem launchHoldsResetValues : Obligations.LaunchHoldsResetValues := by
  intro rate ok
  obtain ⟨-, -, -, -, -, -, -, hbit7⟩ := status_flags (State.launch rate ok)
  have hcode : (State.launch rate ok).lastErr.code = if (State.launch rate ok).failed then 1#2 else 0#2 := by
    cases ok <;> rfl
  exact ⟨rfl, rfl, rfl, rfl, rfl, rfl, rfl, rfl, hcode, hbit7, status_reserved _, rfl, rfl, rfl, rfl, rfl, rfl, rfl,
    rfl⟩

/-- Settles O2, field by field of the STATUS word. -/
theorem statusBitsAreTheFields : Obligations.StatusBitsAreTheFields := by
  intro s
  obtain ⟨hbusy, hinit, hfailed, hpre, hill, hstr, hdiscard, hbit7⟩ := status_flags s
  have hcode := status_lastErr s
  refine ⟨hbusy.trans (busy_eq s), hinit, hfailed, hpre, hill, hstr.trans rfl, hdiscard.trans rfl, hbit7,
    ?none, ?peripheralInitFailure, ?preconditionViolation, ?illegalCommand, status_reserved s, hbusy.symm,
    hstr.symm, hdiscard.symm, hcode.symm, cmdReady_eq_true s, rfl⟩
  all_goals
    intro hkind
    rw [hcode, hkind]
    rfl

/-- Settles O56: the core's move performs the mark at the head of SEQ. -/
theorem markSetsInitDone : Obligations.MarkSetsInitDone := by
  intro s b ops hm hr hs
  rw [step_core hm, coreMove_busy (s := takeMove s) hr hs]
  simp only [microStep, popSeq, markDone, takeMove, hs, List.tail_cons]

/-- Settles O57: the masks and levels are R22's by definition; the falling edge is `fallingEdge_eq_true`. -/
theorem linesAreTheirPortBits : Obligations.LinesAreTheirPortBits :=
  ⟨rfl, rfl, rfl, rfl, fun v u => ⟨rfl, rfl, rfl, rfl, rfl, fallingEdge_eq_true v u⟩⟩

end Sys2Proof.Proofs
end

section
/-! ### What an acceptance does not touch (20_memory.md R51, 44_protocol_ops.md R170, 10_state.md R34) -/

namespace Sys2Proof.Machine

/-- `s` with the environment's side of the state taken from `d`: the inputs, the timer and the delay machine that
drives it, the stream of words, the moves to come and the nibble phase. The acceptance of a word neither reads nor
writes any of these. -/
def withAgentsOf (d s : State) : State :=
  { s with
    dlState := d.dlState
    dlTicks := d.dlTicks
    inReset := d.inReset
    timer := d.timer
    offered := d.offered
    periphOk := d.periphOk
    phase := d.phase
    script := d.script }

theorem acceptByte_withAgentsOf (d : State) (w : Word) (b : Byte) (s : State) :
    acceptByte w b (withAgentsOf d s) = withAgentsOf d (acceptByte w b s) := by
  cases hm : s.mode <;> simp [acceptByte, withAgentsOf, raiseIllegal, hm]

theorem acceptEnd_withAgentsOf (d : State) (w : Word) (s : State) :
    acceptEnd w (withAgentsOf d s) = withAgentsOf d (acceptEnd w s) := by
  cases hm : s.mode <;> simp [acceptEnd, withAgentsOf, raiseIllegal, hm]

theorem acceptAsPayload_withAgentsOf (d : State) (w : Word) (s : State) :
    acceptAsPayload w (withAgentsOf d s) = withAgentsOf d (acceptAsPayload w s) := by
  unfold acceptAsPayload
  split
  · exact acceptEnd_withAgentsOf d w s
  · exact acceptByte_withAgentsOf d w _ s

theorem checkCommand_withAgentsOf (d : State) (i : Instr) (ops : List MicroOp) (r a : Mode) (s : State) :
    checkCommand i ops r a (withAgentsOf d s) = withAgentsOf d (checkCommand i ops r a s) := by
  simp only [checkCommand, apply_ite (withAgentsOf d)]
  rfl

/-- The meaning of an instruction works on the core's side of the state alone. -/
theorem exec_withAgentsOf (d : State) {i : Instr} {s t : State} (h : exec i s = .next t) :
    exec i (withAgentsOf d s) = .next (withAgentsOf d t) := by
  rcases Bool.eq_false_or_eq_true i.isPayload with hp | hp
  · cases i with
    | payloadByte b => cases h; exact congrArg _ (acceptByte_withAgentsOf d _ b s)
    | payloadEnd => cases h; exact congrArg _ (acceptEnd_withAgentsOf d _ s)
    | _ => cases hp
  · by_cases hm : s.mode = .cmd
    · rw [exec_command i s hp hm] at h
      cases h
      rw [exec_command i (withAgentsOf d s) hp hm]
      exact congrArg _ (checkCommand_withAgentsOf d _ _ _ _ s)
    · rw [exec_command_in_string i s hp hm] at h
      cases h
      rw [exec_command_in_string i (withAgentsOf d s) hp hm]
      exact congrArg _ (acceptAsPayload_withAgentsOf d _ s)

/-- A legal word is accepted by running what it decodes to in MODE. -/
theorem acceptWord_instr {s : State} {w : Word} {i : Instr} (hd : decode s.mode w = .instr i) :
    acceptWord w s = exec i s := by
  simp only [acceptWord, hd]

/-- An illegal word is accepted by recording it. -/
theorem acceptWord_illegal {s : State} {w : Word} {r : IllegalReason} (hd : decode s.mode w = .illegal r) :
    acceptWord w s = .next (raiseIllegal w s) := by
  simp only [acceptWord, hd]

/-- The acceptance of a word works on the core's side of the state alone. -/
theorem acceptWord_withAgentsOf (d : State) {w : Word} {s t : State} (h : acceptWord w s = .next t) :
    acceptWord w (withAgentsOf d s) = .next (withAgentsOf d t) := by
  cases hd : decode s.mode w with
  | instr i =>
    rw [acceptWord_instr hd] at h
    rw [acceptWord_instr (s := withAgentsOf d s) hd, exec_withAgentsOf d h]
  | illegal r =>
    rw [acceptWord_illegal hd] at h
    cases h
    exact acceptWord_illegal (s := withAgentsOf d s) hd

/-- The acceptance of a word leaves the environment's side of the state as it was. -/
theorem acceptWord_keeps_agents {w : Word} {s t : State} (h : acceptWord w s = .next t) : t = withAgentsOf s t :=
  Host.Outcome.next.inj (h.symm.trans (acceptWord_withAgentsOf s h))

end Sys2Proof.Machine
end

section
/-! ### The state once SEQ is done (20_memory.md R68, 10_state.md R36, 44_protocol_ops.md R177) -/

namespace Sys2Proof.Machine

/-- INIT_DONE once every micro-operation of the list is done (44_protocol_ops.md R160). -/
def promisedDone : List MicroOp → Bool → Bool
  | [], b => b
  | .mark b :: ops, _ => promisedDone ops b
  | .set _ :: ops, b => promisedDone ops b
  | .clr _ :: ops, b => promisedDone ops b
  | .nib _ :: ops, b => promisedDone ops b
  | .wait _ :: ops, b => promisedDone ops b

/-- The core's side of the state as SEQ will leave it, whenever the timer lets it: the promised port, trace and
INIT_DONE, with the environment's side blanked out. -/
def drained (s : State) : State :=
  { withAgentsOf State.reset s with
    port := promisedPort s.seq s.port
    initDone := promisedDone s.seq s.initDone
    seq := []
    trace := promisedTrace s }

@[simp] theorem drained_withAgentsOf (d s : State) : drained (withAgentsOf d s) = drained s := rfl

/-- With SEQ empty nothing is promised. -/
theorem drained_of_seq_nil {s : State} (hs : s.seq = []) : drained s = withAgentsOf State.reset s := by
  simp [drained, withAgentsOf, promisedTrace, promisedDone, hs]

/-- What is drained decides the promised trace and the promised port. -/
theorem promised_of_drained_eq {s t : State} (h : drained t = drained s) :
    promisedTrace t = promisedTrace s ∧ promisedPort t.seq t.port = promisedPort s.seq s.port :=
  ⟨congrArg State.trace h, congrArg State.port h⟩

/-- A line operation keeps its own promise: the port it writes and the event it makes are those SEQ stood for. -/
theorem drained_portWrite {s : State} {op : MicroOp} {ops : List MicroOp} {v : Byte} (hs : s.seq = op :: ops)
    (hport : opPort op s.port = v) (hevent : opEvents op s.port = [.w v])
    (hdone : promisedDone (op :: ops) s.initDone = promisedDone ops s.initDone) :
    drained (popSeq (portWrite v s)) = drained s := by
  simp [drained, withAgentsOf, promisedTrace, hs, hport, hevent, hdone]

/-- The core's moves on a WAIT keep the promise, whatever the timer has counted. -/
theorem drained_waitStep {s : State} {d : Ticks} {ops : List MicroOp} (hs : s.seq = .wait d :: ops) :
    drained (waitStep d s) = drained s := by
  rcases waitStep_cases d s with ⟨-, hw⟩ | ⟨-, -, hw⟩ | ⟨-, -, hw⟩ <;> rw [hw]
  · rfl
  · simp [drained, withAgentsOf, promisedTrace, promisedDone, hs]

/-- Performing the head of SEQ keeps what SEQ promises. -/
theorem microStep_keeps_drained {op : MicroOp} {ops : List MicroOp} {s t : State} (hs : s.seq = op :: ops)
    (h : microStep op s = .next t) : drained t = drained s := by
  rcases microStep_next h with
    ⟨l, rfl, -, -, rfl⟩ | ⟨l, rfl, -, rfl⟩ | ⟨n, rfl, -, rfl⟩ | ⟨d, rfl, -, rfl⟩ | ⟨b, rfl, rfl⟩
  · exact drained_portWrite hs rfl rfl rfl
  · exact drained_portWrite hs rfl rfl rfl
  · exact drained_portWrite hs rfl rfl rfl
  · exact drained_waitStep hs
  · simp [drained, withAgentsOf, promisedTrace, promisedDone, hs]

/-- Performing the head of SEQ appends at most one event. -/
theorem microStep_trace {op : MicroOp} {s t : State} (h : microStep op s = .next t) :
    t.trace = s.trace ∨ ∃ e, t.trace = s.trace ++ [e] := by
  rcases microStep_next h with ⟨l, -, -, -, rfl⟩ | ⟨l, -, -, rfl⟩ | ⟨n, -, -, rfl⟩ | ⟨d, -, -, rfl⟩ | ⟨b, -, rfl⟩
  · exact .inr ⟨_, rfl⟩
  · exact .inr ⟨_, rfl⟩
  · exact .inr ⟨_, rfl⟩
  · rcases waitStep_cases d s with ⟨-, hw⟩ | ⟨-, -, hw⟩ | ⟨-, -, hw⟩ <;> rw [hw]
    · exact .inl rfl
    · exact .inl rfl
    · exact .inr ⟨_, rfl⟩
  · exact .inl rfl

/-- Performing the head of SEQ takes no word and no scripted move, and never enters reset. -/
theorem microStep_keeps_stream {op : MicroOp} {s t : State} (h : microStep op s = .next t) :
    t.offered = s.offered ∧ t.script = s.script ∧ t.inReset = s.inReset := by
  rcases microStep_next h with ⟨l, -, -, -, rfl⟩ | ⟨l, -, -, rfl⟩ | ⟨n, -, -, rfl⟩ | ⟨d, -, -, rfl⟩ | ⟨b, -, rfl⟩
  · exact ⟨rfl, rfl, rfl⟩
  · exact ⟨rfl, rfl, rfl⟩
  · exact ⟨rfl, rfl, rfl⟩
  · rcases waitStep_cases d s with ⟨-, hw⟩ | ⟨-, -, hw⟩ | ⟨-, -, hw⟩ <;> rw [hw] <;> exact ⟨rfl, rfl, rfl⟩
  · exact ⟨rfl, rfl, rfl⟩

end Sys2Proof.Machine
end

section
/-! ### Where a run ends (70_reset_and_hazards.md R265, 20_memory.md R68) -/

namespace Sys2Proof.Machine

/-- The words accepted one after another, each once the one before it has drained. No timer and no interleaving
has a part in it. -/
def finish : List Word → State → State
  | [], s => drained s
  | w :: ws, s =>
    match acceptWord w (drained s) with
    | .next t => finish ws t
    | .fault _ => drained s
    | .refused _ => drained s

/-- Where a run from s ends, if it comes to an end: all the words left are accepted and drained. -/
def outcome (s : State) : State := finish (wordsLeft s) s

/-- What is drained decides where the words lead. -/
theorem finish_congr {s t : State} (h : drained s = drained t) (ws : List Word) : finish ws s = finish ws t := by
  cases ws <;> simp only [finish, h]

theorem outcome_congr {s t : State} (hwords : wordsLeft s = wordsLeft t) (hdrained : drained s = drained t) :
    outcome s = outcome t := by
  unfold outcome
  rw [hwords]
  exact finish_congr hdrained _

/-- The acceptance of the first word, on a core whose SEQ is empty, is the first step of `finish`. -/
theorem finish_accept {s t : State} {w : Word} (ws : List Word) (hs : s.seq = []) (h : acceptWord w s = .next t) :
    finish (w :: ws) s = finish ws t := by
  simp only [finish, drained_of_seq_nil hs, acceptWord_withAgentsOf State.reset h]
  exact finish_congr (drained_withAgentsOf _ t) ws

/-- A run that is over has nothing left to do. -/
theorem RunOver.outcome_eq {s : State} (h : RunOver s) : outcome s = withAgentsOf State.reset s := by
  obtain ⟨hwords, hseq, -⟩ := h
  unfold outcome
  rw [hwords]
  exact drained_of_seq_nil hseq

/-- Taking a move that is no offer takes no word from those to come. -/
theorem wordsToCome_tail {s : State} (h : ∀ w, nextMove s ≠ .offer w) :
    wordsToCome s.script.tail = wordsToCome s.script := by
  cases hscript : s.script with
  | nil => rfl
  | cons m ms =>
    have hm : nextMove s = m := by simp only [nextMove, hscript]
    cases m with
    | offer w => exact absurd hm (h w)
    | _ => rfl

/-- A move that the script does not hold and that is not one of the default order is not made. -/
theorem nextMove_ne_of_notMem {s : State} {m : Move} (hcore : m ≠ .core) (hexpire : m ≠ .expire)
    (h : m ∉ s.script) : nextMove s ≠ m := by
  unfold nextMove
  split
  next m' ms hscript =>
    rintro rfl
    exact h (hscript ▸ List.mem_cons_self)
  next =>
    split
    · exact hexpire.symm
    · exact hcore.symm

/-- The move the host makes is an offer only where the script says so. -/
theorem script_of_nextMove_offer {s : State} {w : Word} (h : nextMove s = .offer w) :
    s.script = .offer w :: s.script.tail := by
  have hmem : Move.offer w ∈ s.script := by
    by_contra hmem
    exact nextMove_ne_of_notMem (by simp) (by simp) hmem h
  cases hscript : s.script with
  | nil => simp [hscript] at hmem
  | cons m ms =>
    simp only [nextMove, hscript] at h
    rw [h, List.tail_cons]

/-- A state on a run that, out of reset and with no reset to come, ends in r if it ends. -/
structure OnCourse (r s : State) : Prop where
  outOfReset : s.inReset = false
  noReset : Move.rst ∉ s.script
  leadsTo : outcome s = r

variable {r s t : State}

/-- A move that accepts no word and offers none stays on course where it keeps what SEQ promises. -/
theorem OnCourse.of_drained (h : OnCourse r s) (hm : ∀ w, nextMove s ≠ .offer w) (hdrained : drained t = drained s)
    (hstream : t.offered = s.offered ∧ t.script = s.script.tail ∧ t.inReset = s.inReset) : OnCourse r t := by
  obtain ⟨hoffered, hscript, hreset⟩ := hstream
  refine ⟨hreset.trans h.outOfReset, fun hmem => ?_, ?_⟩
  · exact h.noReset (List.mem_of_mem_tail (hscript ▸ hmem))
  · rw [← h.leadsTo]
    exact outcome_congr (by rw [wordsLeft, wordsLeft, hoffered, hscript, wordsToCome_tail hm]) hdrained

/-- An offer only moves a word from those to come to those offered. -/
theorem OnCourse.offer {w : Word} (h : OnCourse r s) (hm : nextMove s = .offer w) :
    OnCourse r { takeMove s with offered := s.offered ++ [w] } := by
  refine ⟨h.outOfReset, fun hmem => h.noReset (List.mem_of_mem_tail hmem), ?_⟩
  rw [← h.leadsTo]
  refine outcome_congr ?_ rfl
  simp only [wordsLeft, takeMove_script]
  rw [script_of_nextMove_offer hm]
  simp [wordsToCome]

/-- An acceptance is the next step of the course. -/
theorem OnCourse.accept {w : Word} {ws : List Word} (h : OnCourse r s) (hm : nextMove s = .core) (hs : s.seq = [])
    (ho : s.offered = w :: ws) (haccept : acceptWord w { takeMove s with offered := ws } = .next t) :
    OnCourse r t := by
  have hagents := acceptWord_keeps_agents haccept
  have hoffered : t.offered = ws := congrArg State.offered hagents
  have hscript : t.script = s.script.tail := congrArg State.script hagents
  have hreset : t.inReset = s.inReset := (congrArg State.inReset hagents :)
  refine ⟨hreset.trans h.outOfReset, fun hmem => h.noReset (List.mem_of_mem_tail (hscript ▸ hmem)), ?_⟩
  have hwords : wordsLeft s = w :: wordsLeft t := by
    rw [wordsLeft, wordsLeft, ho, hoffered, hscript, wordsToCome_tail (by simp [hm]), List.cons_append]
  calc outcome t = finish (w :: wordsLeft t) { takeMove s with offered := ws } :=
        (finish_accept (s := { takeMove s with offered := ws }) _ hs haccept).symm
    _ = finish (w :: wordsLeft t) s := finish_congr rfl _
    _ = outcome s := by rw [outcome, hwords]
    _ = r := h.leadsTo

/-- Every step stays on course: a reset, the one move that would not, is not in the script. -/
theorem step_keeps_onCourse (h : OnCourse r s) (hstep : step s = .next t) : OnCourse r t := by
  rcases step_next hstep with
    ⟨hm, hcore⟩ | ⟨n, hm, rfl⟩ | ⟨hm, -, rfl⟩ | ⟨w, hm, rfl⟩ | ⟨hm, -⟩ | ⟨ok, hm, rfl⟩
  · rcases coreMove_cases (takeMove s) with
      ⟨hr, -⟩ | ⟨-, op, ops, hs, hc⟩ | ⟨-, hs, w, ws, ho, hc⟩ | ⟨-, -, -, hc⟩
    · simp [h.outOfReset] at hr
    · rw [hc] at hcore
      have hdrained : drained t = drained s := microStep_keeps_drained (s := takeMove s) hs hcore
      exact h.of_drained (by simp [hm]) hdrained (microStep_keeps_stream hcore)
    · exact h.accept hm hs ho (hc.symm.trans hcore)
    · obtain rfl := Host.Outcome.next.inj (hc.symm.trans hcore)
      exact h.of_drained (by simp [hm]) rfl ⟨rfl, rfl, rfl⟩
  · exact h.of_drained (by simp [hm]) rfl ⟨rfl, rfl, rfl⟩
  · exact h.of_drained (by simp [hm]) rfl ⟨rfl, rfl, rfl⟩
  · exact h.offer hm
  · exact absurd hm (nextMove_ne_of_notMem (by simp) (by simp) h.noReset)
  · exact h.of_drained (by simp [hm]) rfl ⟨rfl, rfl, rfl⟩

/-- A run over moves without a reset ends, if it ends, where its start leads to. -/
theorem run_ends_in_outcome {k : Nat} (hr : s.inReset = false) (hm : Move.rst ∉ s.script)
    (hrun : Sys2Proof.core.run k s = .next t) (hover : RunOver t) : withAgentsOf State.reset t = outcome s := by
  have hcourse : OnCourse (outcome s) t :=
    run_keeps (fun _ _ => step_keeps_onCourse) ⟨hr, hm, rfl⟩ hrun
  rw [← hover.outcome_eq, hcourse.leadsTo]

end Sys2Proof.Machine
end

section
/-! ### NIB on its two halves of the port (20_memory.md R58, R59) -/

namespace Sys2Proof.Machine

open Sys2Proof.Config

/-- NIB(n) puts n on the data lines. -/
theorem nibValue_low (n : Nibble) (v : Byte) : (nibValue n v).extractLsb' 0 4 = n := by
  apply BitVec.eq_of_getLsbD_eq
  intro i hi
  have hmask : maskDB.getLsbD i = true := by revert i; decide
  simp only [nibValue, BitVec.getLsbD_extractLsb', BitVec.getLsbD_or, BitVec.getLsbD_and, BitVec.getLsbD_not,
    BitVec.getLsbD_setWidth, Nat.zero_add, hmask]
  simp [hi, show i < 8 by omega]

/-- NIB(n) leaves the four control lines as they were. -/
theorem nibValue_high (n : Nibble) (v : Byte) : (nibValue n v).extractLsb' 4 4 = v.extractLsb' 4 4 := by
  apply BitVec.eq_of_getLsbD_eq
  intro i hi
  have hmask : maskDB.getLsbD (4 + i) = false := by revert i; decide
  simp only [nibValue, BitVec.getLsbD_extractLsb', BitVec.getLsbD_or, BitVec.getLsbD_and, BitVec.getLsbD_not,
    BitVec.getLsbD_setWidth, hmask]
  simp [show 4 + i < 8 by omega]

/-- Out of reset with a micro-operation at the head of SEQ, the core's step performs it. -/
theorem step_microOp {s : State} {op : MicroOp} {ops : List MicroOp} (hm : nextMove s = .core)
    (hr : s.inReset = false) (hs : s.seq = op :: ops) : step s = microStep op (takeMove s) :=
  (step_core hm).trans (coreMove_busy (s := takeMove s) hr hs)

end Sys2Proof.Machine

namespace Sys2Proof.Proofs

open Sys2Proof.Machine Sys2Proof.Config

/-- Settles O39: both runs end in the state their common start leads to, which knows no timer and no interleaving. -/
theorem runResultIsIndependentOfTheTimer : Obligations.RunResultIsIndependentOfTheTimer := by
  intro s m₁ m₂ tm₁ tm₂ k₁ k₂ t₁ t₂ hr hm₁ hm₂ hwords hrun₁ hover₁ hrun₂ hover₂
  have hrst₁ : Move.rst ∉ m₁ := fun h => by simpa using hm₁ _ h
  have hrst₂ : Move.rst ∉ m₂ := fun h => by simpa using hm₂ _ h
  have hend₁ := run_ends_in_outcome (s := { s with script := m₁, timer := tm₁ }) hr hrst₁ hrun₁ hover₁
  have hend₂ := run_ends_in_outcome (s := { s with script := m₂, timer := tm₂ }) hr hrst₂ hrun₂ hover₂
  have hstart : outcome { s with script := m₁, timer := tm₁ } = outcome { s with script := m₂, timer := tm₂ } :=
    outcome_congr (by simp only [wordsLeft, hwords]) rfl
  have hsame : withAgentsOf State.reset t₁ = withAgentsOf State.reset t₂ := by rw [hend₁, hend₂, hstart]
  exact ⟨(congrArg State.trace hsame :), (congrArg State.port hsame :), (congrArg status hsame :),
    (congrArg State.errWord hsame :)⟩

/-- Settles O38: the core's move performs the head of SEQ, which keeps what SEQ promises; no other agent's move but a
reset touches the core's side of the state. -/
theorem noMoveChangesThePromisedTrace : Obligations.NoMoveChangesThePromisedTrace := by
  intro s t hr hm hs hstep
  suffices h : drained t = drained s ∧ (t.trace = s.trace ∨ ∃ e, t.trace = s.trace ++ [e]) by
    obtain ⟨hdrained, hevent⟩ := h
    obtain ⟨htrace, hport⟩ := promised_of_drained_eq hdrained
    exact ⟨htrace, hport, hevent⟩
  rcases step_next hstep with
    ⟨hcore, -⟩ | ⟨n, -, rfl⟩ | ⟨-, -, rfl⟩ | ⟨w, -, rfl⟩ | ⟨hrst, -⟩ | ⟨ok, -, rfl⟩
  · obtain ⟨op, ops, hseq⟩ := List.exists_cons_of_ne_nil hs
    rw [step_microOp hcore hr hseq] at hstep
    exact ⟨microStep_keeps_drained (s := takeMove s) hseq hstep, microStep_trace (s := takeMove s) hstep⟩
  · exact ⟨rfl, .inl rfl⟩
  · exact ⟨rfl, .inl rfl⟩
  · exact ⟨rfl, .inl rfl⟩
  · exact absurd hrst hm
  · exact ⟨rfl, .inl rfl⟩

/-- Settles O41: only an acceptance takes a word, and the core accepts only out of reset with SEQ empty. -/
theorem wordsLeaveTheStreamOnlyWhenReady : Obligations.WordsLeaveTheStreamOnlyWhenReady := by
  intro s t hstep
  rcases step_next hstep with
    ⟨-, hcore⟩ | ⟨n, -, rfl⟩ | ⟨-, -, rfl⟩ | ⟨w, hm, rfl⟩ | ⟨-, rfl⟩ | ⟨ok, -, rfl⟩
  · rcases coreMove_cases (takeMove s) with
      ⟨-, hc⟩ | ⟨-, op, ops, -, hc⟩ | ⟨hr, hs, w, ws, ho, hc⟩ | ⟨-, -, -, hc⟩ <;> rw [hc] at hcore
    · cases hcore
      exact .inl rfl
    · obtain ⟨hoffered, -, -⟩ := microStep_keeps_stream hcore
      exact .inl hoffered
    · have hoffered : t.offered = ws := congrArg State.offered (acceptWord_keeps_agents hcore)
      exact .inr (.inr ⟨(cmdReady_eq_true s).2 ⟨hr, hs⟩, w, by rw [hoffered]; exact ho⟩)
    · cases hcore
      exact .inl rfl
  · exact .inl rfl
  · exact .inl rfl
  · exact .inr (.inl ⟨w, hm, rfl⟩)
  · exact .inl rfl
  · exact .inl rfl

/-- Settles O34: each of the three is one port write of a value that differs from the port inside the mask only. -/
theorem lineOperationsPreserveOtherBits : Obligations.LineOperationsPreserveOtherBits := by
  intro s op ops hm hr hf hs
  have hseq : (takeMove s).seq.tail = ops := by simp [hs]
  have hfailed : ¬ (takeMove s).failed = true := by simp [hf]
  rw [step_microOp hm hr hs]
  refine ⟨?set, ?clr, ?nib⟩
  case set =>
    rintro l rfl hl
    have hsettable : l.settable = true := by rcases hl with rfl | rfl <;> rfl
    exact ⟨popSeq (setLine l (takeMove s)), by rw [microStep, if_neg hfailed, if_pos hsettable], rfl, rfl, hseq,
      fun k hk => (setValue_bit l s.port k).trans (by rw [hk, Bool.or_false])⟩
  case clr =>
    rintro l rfl
    exact ⟨popSeq (clrLine l (takeMove s)), if_neg hfailed, rfl, rfl, hseq,
      fun k hk => (clrValue_bit l s.port k).trans (by rw [hk, Bool.not_false, Bool.and_true])⟩
  case nib =>
    rintro n rfl
    exact ⟨popSeq (presentNibble n (takeMove s)), if_neg hfailed, nibValue_low n s.port, nibValue_high n s.port, rfl,
      hseq⟩

/-- Settles O12: the core's move accepts the word, which is running what it decodes to. -/
theorem stepRunsTheDecodedWord : Obligations.StepRunsTheDecodedWord := by
  intro s w ws i hm hr hs ho hd
  rw [step_core hm, coreMove_accept (s := takeMove s) hr hs ho]
  exact acceptWord_instr (s := { takeMove s with offered := ws }) hd

/-- Settles O43: the moves of another agent have no meaning in any state. -/
theorem secondWriterIsRefused : Obligations.SecondWriterIsRefused := by
  rintro s (⟨v, hm⟩ | hm) <;> rw [step, hm] <;> rfl

end Sys2Proof.Proofs
end

section
/-! ### Decoding the encoder's words, and the words a row of the opcode map selects (30_encoding.md R82 to R88) -/

namespace Sys2Proof

/-! The words of a string (R88). -/

theorem decode_payload {m : Mode} (hm : m ≠ .cmd) (w : Word) : decode m w = .instr (decodePayload w) := by
  cases m with
  | cmd => exact absurd rfl hm
  | str => rfl
  | discard => rfl

theorem decodePayload_byte {w : Word} (h : termField w = false) : decodePayload w = .payloadByte (byteField w) := by
  simp only [decodePayload, h, Bool.false_eq_true, if_false]

theorem decodePayload_end {w : Word} (h : termField w = true) : decodePayload w = .payloadEnd := by
  simp only [decodePayload, h, if_true]

theorem decodePayload_encode {i : Instr} (hp : i.isPayload = true) : decodePayload (encode i) = i := by
  cases i with
  | payloadByte b =>
    have hbyte := decodePayload_byte (termField_areaB 0x00#8 b)
    rwa [byteField_areaB] at hbyte
  | payloadEnd => rfl
  | _ => cases hp

/-! The words of the commands (R82, R84). -/

/-- The decoder reads a command's own word as that command: OP selects its format, whose reserved bits are 0. -/
theorem decodeCommand_encode {i : Instr} (hp : i.isPayload = false) : decodeCommand (encode i) = .instr i := by
  cases i with
  | goto line col => simp [decodeCommand, encode, fmtG]
  | putchar b => simp [decodeCommand, encode, fmtB]
  | wrcmd b => simp [decodeCommand, encode, fmtB]
  | wrbyte b => simp [decodeCommand, encode, fmtB]
  | delayus d => simp [decodeCommand, encode]
  | delayms d => simp [decodeCommand, encode]
  | payloadByte b => cases hp
  | payloadEnd => cases hp
  | _ => rfl

theorem mkWord_eq_of_fields {w : Word} {op : BitVec 8} {area : BitVec 24} (hop : opField w = op)
    (harea : durField w = area) : mkWord op area = w := by
  rw [← hop, ← harea, word_of_fields]

/-- A legal word of MODE = CMD is the word of the command it decodes to. -/
theorem encode_of_decodeCommand {w : Word} {i : Instr} (h : decodeCommand w = .instr i) :
    encode i = w ∧ i.isPayload = false := by
  rcases decodeCommand_cases h with ⟨hop, rfl, harea⟩ | ⟨hop, rfl, harea⟩ | ⟨hop, rfl, harea⟩ | ⟨hop, rfl, harea⟩ |
    ⟨hop, rfl, harea⟩ | ⟨hop, rfl, harea⟩ | ⟨hop, rfl, harea⟩ | ⟨hop, rfl, harea⟩ | ⟨hop, rfl, harea⟩ |
    ⟨hop, rfl, harea⟩ | ⟨hop, rfl⟩ | ⟨hop, rfl⟩
  iterate 10
    · exact ⟨mkWord_eq_of_fields hop harea, rfl⟩
  · exact ⟨mkWord_eq_of_fields hop rfl, rfl⟩
  · exact ⟨mkWord_eq_of_fields hop rfl, rfl⟩

/-! The rows of the opcode map (R84). -/

/-- The masked word agrees with the whole word on every field the mask covers. -/
theorem field_of_masked {w mask pattern : Word} (h : w &&& mask = pattern) (start len : Nat)
    (hmask : mask.extractLsb' start len = BitVec.allOnes len) :
    w.extractLsb' start len = pattern.extractLsb' start len := by
  rw [← h, BitVec.extractLsb'_and, hmask, BitVec.and_allOnes]

theorem word_of_rowN {w pattern : Word} (h : w &&& 0xFFFFFFFF#32 = pattern) : pattern = w :=
  h.symm.trans BitVec.and_allOnes

theorem word_of_rowB {w pattern : Word} {op : BitVec 8} (h : w &&& 0xFFFFFF00#32 = pattern)
    (hpattern : pattern = mkWord op 0#24) : mkWord op (areaB (byteField w)) = w := by
  subst hpattern
  exact mkWord_eq_of_fields ((field_of_masked h 24 8 rfl).trans (opField_mkWord op _))
    (area_of_formatB ((field_of_masked h 8 16 rfl).trans (reserved_areaB op 0#8)))

theorem word_of_rowG {w pattern : Word} {op : BitVec 8} (h : w &&& 0xFFFFFE00#32 = pattern)
    (hpattern : pattern = mkWord op 0#24) : mkWord op (areaG (lineField w) (byteField w)) = w := by
  subst hpattern
  exact mkWord_eq_of_fields ((field_of_masked h 24 8 rfl).trans (opField_mkWord op _))
    (area_of_formatG ((field_of_masked h 9 15 rfl).trans (reserved_areaG op 0#1 0#8)))

theorem word_of_rowD {w pattern : Word} {op : BitVec 8} (h : w &&& 0xFF000000#32 = pattern)
    (hpattern : pattern = mkWord op 0#24) : mkWord op (durField w) = w := by
  subst hpattern
  exact mkWord_eq_of_fields ((field_of_masked h 24 8 rfl).trans (opField_mkWord op _)) rfl

end Sys2Proof

namespace Sys2Proof.Machine

theorem selects_encode (i : Instr) : (opcodeRow i).selects (encode i) := by
  cases i with
  | init => exact Laws.TableRow.init
  | clear => exact Laws.TableRow.clear
  | goto line col => exact Laws.TableRow.goto line col
  | putchar b => exact Laws.TableRow.putchar b
  | putstr => exact Laws.TableRow.putstr
  | wrcmd b => exact Laws.TableRow.wrcmd b
  | wrbyte b => exact Laws.TableRow.wrbyte b
  | selcmd => exact Laws.TableRow.selcmd
  | seldata => exact Laws.TableRow.seldata
  | clock => exact Laws.TableRow.clock
  | delayus d => exact Laws.TableRow.delayus d
  | delayms d => exact Laws.TableRow.delayms d
  | payloadByte b => exact Laws.TableRow.payloadByte b
  | payloadEnd => exact Laws.TableRow.payloadEnd

/-- A word that a command's row selects is the word of a command of that row: the mask leaves only operand bits free. -/
theorem exists_encode_of_selects {w : Word} {i : Instr} (hp : i.isPayload = false) (h : (opcodeRow i).selects w) :
    ∃ j, encode j = w ∧ j.isPayload = false ∧ opcodeRow j = opcodeRow i := by
  cases i with
  | init => exact ⟨.init, word_of_rowN h, rfl, rfl⟩
  | clear => exact ⟨.clear, word_of_rowN h, rfl, rfl⟩
  | putstr => exact ⟨.putstr, word_of_rowN h, rfl, rfl⟩
  | selcmd => exact ⟨.selcmd, word_of_rowN h, rfl, rfl⟩
  | seldata => exact ⟨.seldata, word_of_rowN h, rfl, rfl⟩
  | clock => exact ⟨.clock, word_of_rowN h, rfl, rfl⟩
  | goto _ _ => exact ⟨.goto (lineField w) (byteField w), word_of_rowG h rfl, rfl, rfl⟩
  | putchar _ => exact ⟨.putchar (byteField w), word_of_rowB h rfl, rfl, rfl⟩
  | wrcmd _ => exact ⟨.wrcmd (byteField w), word_of_rowB h rfl, rfl, rfl⟩
  | wrbyte _ => exact ⟨.wrbyte (byteField w), word_of_rowB h rfl, rfl, rfl⟩
  | delayus _ => exact ⟨.delayus (durField w), word_of_rowD h rfl, rfl, rfl⟩
  | delayms _ => exact ⟨.delayms (durField w), word_of_rowD h rfl, rfl, rfl⟩
  | payloadByte _ => cases hp
  | payloadEnd => cases hp

/-- A word that a command's row selects decodes to a command of that row. -/
theorem decodeCommand_of_selects {w : Word} {i : Instr} (hp : i.isPayload = false) (h : (opcodeRow i).selects w) :
    ∃ j, decodeCommand w = .instr j ∧ opcodeRow j = opcodeRow i := by
  obtain ⟨j, rfl, hj, hrow⟩ := exists_encode_of_selects hp h
  exact ⟨j, decodeCommand_encode hj, hrow⟩

end Sys2Proof.Machine

namespace Sys2Proof.Proofs

open Sys2Proof.Machine

/-- Settles O5: a command's own word has its OP and no reserved bit set, a payload form's own word has its TERM. -/
theorem decodeOfEncodeIsTheInstruction : Obligations.DecodeOfEncodeIsTheInstruction := by
  intro m i hwf
  cases m with
  | cmd => exact decodeCommand_encode (by simpa [Instr.wellFormed] using hwf)
  | str => exact congrArg Decoded.instr (decodePayload_encode hwf)
  | discard => exact congrArg Decoded.instr (decodePayload_encode hwf)

/-- Settles O6: OP and the operand area, which the decoded command determines, are the whole word. -/
theorem commandWordIsItsEncoding : Obligations.CommandWordIsItsEncoding :=
  fun _ _ h => encode_of_decodeCommand h

/-- Settles O7: a legal word is its command's own word, which that command's row selects; a word two rows select
decodes to one command, whose row both are. -/
theorem opcodeMapDecidesLegality : Obligations.OpcodeMapDecidesLegality := by
  refine ⟨fun w i h => ?_, fun w i hp h => decodeCommand_of_selects hp h, fun w i j hpi hpj hi hj => ?_⟩
  · obtain ⟨rfl, hp⟩ := encode_of_decodeCommand h
    exact ⟨hp, selects_encode i⟩
  · obtain ⟨i', hdi, hrowi⟩ := decodeCommand_of_selects hpi hi
    obtain ⟨j', hdj, hrowj⟩ := decodeCommand_of_selects hpj hj
    have hsame : i' = j' := Decoded.instr.inj (hdi.symm.trans hdj)
    rw [← hrowi, ← hrowj, hsame]

/-- Settles O8: outside MODE = CMD the decoder looks at TERM and BYTE alone. -/
theorem payloadWordsIgnoreHighBits : Obligations.PayloadWordsIgnoreHighBits := by
  intro m w hm
  rw [decode_payload hm]
  exact ⟨fun h => congrArg Decoded.instr (decodePayload_byte h), fun h => congrArg Decoded.instr (decodePayload_end h)⟩

/-- Settles O9: ten closed words, decoded. -/
theorem sampleWordsDecodeAsTheSpecSays : Obligations.SampleWordsDecodeAsTheSpecSays := by
  unfold Obligations.SampleWordsDecodeAsTheSpecSays
  decide

end Sys2Proof.Proofs
end

section
/-! ### The value of a built word, and the assembler (30_encoding.md R81, R82, R90, R91) -/

namespace Sys2Proof

theorem toNat_append_eq_add {m n : Nat} (x : BitVec m) (y : BitVec n) :
    (x ++ y).toNat = x.toNat * 2 ^ n + y.toNat := by
  rw [BitVec.toNat_append, ← Nat.shiftLeft_add_eq_or_of_lt y.isLt, Nat.shiftLeft_eq]

theorem mkWord_toNat (op : BitVec 8) (area : BitVec 24) : (mkWord op area).toNat = op.toNat * 2 ^ 24 + area.toNat :=
  toNat_append_eq_add op area

theorem areaB_toNat (b : Byte) : (areaB b).toNat = b.toNat :=
  (toNat_append_eq_add 0#16 b).trans (by simp)

theorem areaG_toNat (line : BitVec 1) (col : Byte) : (areaG line col).toNat = line.toNat * 256 + col.toNat :=
  (toNat_append_eq_add (0#15 ++ line) col).trans (by rw [toNat_append_eq_add]; simp)

/-- A payload byte word holds the byte in bits 7:0 and 0 above. -/
theorem encode_payloadByte (b : Byte) : encode (.payloadByte b) = b.setWidth 32 := by
  apply BitVec.eq_of_toNat_eq
  have hb := b.isLt
  rw [encode, mkWord_toNat, areaB_toNat, BitVec.toNat_setWidth, Nat.mod_eq_of_lt (by omega)]
  simp

/-- The word with OP and an operand area of value v is the number that R90 writes for it. -/
theorem mkWord_eq_ofNat {op : BitVec 8} {area : BitVec 24} {v : Nat} (h : area.toNat = v) :
    mkWord op area = BitVec.ofNat 32 (op.toNat * 2 ^ 24 + v) := by
  rw [← h, ← mkWord_toNat, BitVec.ofNat_toNat, BitVec.setWidth_eq]

theorem areaB_ofNat_toNat {b : Nat} (hb : b ≤ 255) : (areaB (BitVec.ofNat 8 b)).toNat = b := by
  rw [areaB_toNat, BitVec.toNat_ofNat, Nat.mod_eq_of_lt (by omega)]

theorem areaG_ofNat_toNat {line col : Nat} (hl : line ≤ 1) (hc : col ≤ 255) :
    (areaG (BitVec.ofNat 1 line) (BitVec.ofNat 8 col)).toNat = line * 256 + col := by
  rw [areaG_toNat, BitVec.toNat_ofNat, BitVec.toNat_ofNat, Nat.mod_eq_of_lt (by omega), Nat.mod_eq_of_lt (by omega)]

/-- The lines with a byte operand, whose instruction has format B. -/
theorem asmByte_eq {i : Byte → Instr} {op : BitVec 8} (hi : ∀ b, encode (i b) = mkWord op (areaB b)) (b : Nat) :
    asmByte i b = if b ≤ 255 then some [BitVec.ofNat 32 (op.toNat * 2 ^ 24 + b)] else none := by
  unfold asmByte
  by_cases hb : b ≤ 255
  · rw [if_pos hb, if_pos (by omega), hi, mkWord_eq_ofNat (areaB_ofNat_toNat hb)]
  · rw [if_neg hb, if_neg (by omega)]

/-- The lines with a duration operand, whose instruction has format D. -/
theorem asmDuration_eq {i : Duration → Instr} {op : BitVec 8} (hi : ∀ d, encode (i d) = mkWord op d) (d : Nat) :
    asmDuration i d = if d ≤ 16777215 then some [BitVec.ofNat 32 (op.toNat * 2 ^ 24 + d)] else none := by
  unfold asmDuration
  by_cases hd : d ≤ 16777215
  · have hval : (BitVec.ofNat 24 d).toNat = d := Nat.mod_eq_of_lt (by omega)
    rw [if_pos hd, if_pos (by omega), hi, mkWord_eq_ofNat hval]
  · rw [if_neg hd, if_neg (by omega)]

theorem assemble_goto (line col : Nat) : assemble (.goto line col) =
    if line ≤ 1 ∧ col ≤ 255 then some [BitVec.ofNat 32 (0x03000000 + line * 256 + col)] else none := by
  rw [assemble]
  by_cases h : line ≤ 1 ∧ col ≤ 255
  · have ⟨hl, hc⟩ := h
    rw [if_pos h, if_pos (by omega), encode, mkWord_eq_ofNat (areaG_ofNat_toNat hl hc), Nat.add_assoc]
    rfl
  · rw [if_neg h, if_neg (by omega)]

theorem assemble_word (n : Nat) :
    assemble (.word n) = if n ≤ 0xFFFFFFFF then some [BitVec.ofNat 32 n] else none :=
  if_congr Nat.lt_succ_iff rfl rfl

end Sys2Proof

namespace Sys2Proof.Proofs

/-- Settles O11: each operand line is the word of its format at the operand's value, or an error by the range check. -/
theorem assemblerNeverTruncates : Obligations.AssemblerNeverTruncates := by
  refine ⟨rfl, rfl, rfl, rfl, rfl, rfl, rfl, fun line col b d n => ⟨assemble_goto line col,
    asmByte_eq (op := 0x04#8) (fun _ => rfl) b, ?chr, asmByte_eq (op := 0x06#8) (fun _ => rfl) b,
    asmByte_eq (op := 0x10#8) (fun _ => rfl) b, asmDuration_eq (op := 0x20#8) (fun _ => rfl) d,
    asmDuration_eq (op := 0x21#8) (fun _ => rfl) d, assemble_word n⟩⟩
  case chr =>
    rw [assemble]
    simpa using asmByte_eq (i := .payloadByte) (op := 0x00#8) (fun _ => rfl) b

/-- Settles O10: each CHR word is its byte, widened. -/
theorem putsExpandsToHeaderBytesEnd : Obligations.PutsExpandsToHeaderBytesEnd := by
  intro text
  refine ⟨_, rfl, ?_, by simp⟩
  simp only [encode_payloadByte]
  rfl

end Sys2Proof.Proofs
end

section
/-! ### Durations in ticks (40_timed_delay.md R111) -/

namespace Sys2Proof.Machine

open Sys2Proof.Config

/-- The longest delay a word can ask for fits the timer's count: 1000 < 2^10. -/
theorem duration_ms_lt (rate : TickRate) (d : Duration) : d.toNat * 1000 * rate.val < 2 ^ 64 := by
  obtain ⟨-, hrate⟩ := rate.property
  calc d.toNat * 1000 * rate.val
      < 2 ^ 34 * 2 ^ 30 := Nat.mul_lt_mul'' (by have := d.isLt; omega) hrate
    _ = 2 ^ 64 := by norm_num

theorem duration_us_lt (rate : TickRate) (d : Duration) : d.toNat * rate.val < 2 ^ 64 :=
  (Nat.mul_le_mul_right _ (Nat.le_mul_of_pos_right _ (by norm_num))).trans_lt (duration_ms_lt rate d)

/-- US(d) is held exactly. -/
@[simp] theorem microseconds_toNat (rate : TickRate) (d : Duration) :
    (microseconds rate d.toNat).toNat = d.toNat * rate.val :=
  Nat.mod_eq_of_lt (duration_us_lt rate d)

/-- MS(d) is held exactly. -/
@[simp] theorem milliseconds_toNat (rate : TickRate) (d : Duration) :
    (milliseconds rate d.toNat).toNat = d.toNat * 1000 * rate.val :=
  Nat.mod_eq_of_lt (duration_ms_lt rate d)

end Sys2Proof.Machine
end

section
/-! ### A command that passes its checks (44_protocol_ops.md R170, R171) -/

namespace Sys2Proof.Machine

/-- A command that is neither discarded nor rejected only fills SEQ; PUTSTR alone changes MODE too (R164). -/
theorem exec_performed {i : Instr} {s : State} (hi : i.isPayload = false) (hstr : i ≠ .putstr) (hm : s.mode = .cmd)
    (hf : s.failed = false) (hready : needsReady i = false ∨ s.initDone = true) :
    exec i s = .next { s with seq := expand s.ticksPerUs i } := by
  rw [exec_command i s hi hm, if_neg hstr, if_neg hstr]
  rcases checkCommand_cases i (expand s.ticksPerUs i) .cmd .cmd s with
    ⟨hfailed, -⟩ | ⟨-, hneeds, hdone, -⟩ | ⟨-, -, hperformed⟩
  · simp [hf] at hfailed
  · simp [hneeds, hdone] at hready
  · rw [hperformed, ← hm]

end Sys2Proof.Machine
end

section
/-! ### The timer handshake of a WAIT, and the one move that makes a T event (40_timed_delay.md R112 to R114) -/

namespace Sys2Proof.Machine

variable {s t : State} {n : Ticks}

/-- In DL_IDLE a WAIT arms the timer. -/
theorem waitStep_idle (hd : s.dlState = .idle) : waitStep n s = armDelay n s := by
  simp [waitStep, hd]

/-- In DL_ARMED with the flag 0 a WAIT holds. -/
theorem waitStep_unexpired (hd : s.dlState = .armed) (he : s.timer.expired = false) : waitStep n s = s := by
  simp [waitStep, hd, he]

/-- In DL_ARMED with the flag 1 a WAIT is over. -/
theorem waitStep_expired (hd : s.dlState = .armed) (he : s.timer.expired = true) :
    waitStep n s = popSeq (finishDelay n s) := by
  simp [waitStep, hd, he]

/-- A core that has not failed performs the WAIT at the head of SEQ. -/
theorem step_wait {ops : List MicroOp} (hm : nextMove s = .core) (hr : s.inReset = false) (hf : s.failed = false)
    (hs : s.seq = .wait n :: ops) : step s = .next (waitStep n (takeMove s)) :=
  (step_microOp hm hr hs).trans (if_neg (by simp [hf]))

/-- Accepting a word, legal or not, makes no event. -/
theorem acceptWord_keeps_trace {w : Word} (h : acceptWord w s = .next t) : t.trace = s.trace := by
  unfold acceptWord at h
  split at h
  next i _ =>
    obtain ⟨t', ht', hkind⟩ := exec_cases i s
    obtain rfl : t' = t := Host.Outcome.next.inj (ht'.symm.trans h)
    rcases hkind with rfl | ⟨m, -, rfl⟩ | ⟨m, -, -, -, -, rfl⟩ | ⟨-, -, rfl⟩ | ⟨m, -, -, -, rfl⟩ | ⟨b, -, rfl⟩ <;> rfl
  · cases h
    rfl

/-- One core move on a WAIT(d) makes a T event only where it finishes the WAIT. -/
theorem waitStep_of_appends_t {d : Ticks} (ht : (waitStep d s).trace = s.trace ++ [.t n]) :
    d = n ∧ s.dlState = .armed ∧ s.timer.expired = true := by
  rcases waitStep_cases d s with ⟨-, hw⟩ | ⟨-, -, hw⟩ | ⟨hd, he, hw⟩ <;> rw [hw] at ht
  · simp at ht
  · simp at ht
  · exact ⟨by simpa using ht, hd, he⟩

/-- Of the micro-operations only an armed WAIT(n) with the flag up makes the event T(n). -/
theorem microStep_of_appends_t {op : MicroOp} (h : microStep op s = .next t) (ht : t.trace = s.trace ++ [.t n]) :
    op = .wait n ∧ s.dlState = .armed ∧ s.timer.expired = true ∧ t = popSeq (finishDelay n s) := by
  rcases microStep_next h with ⟨l, -, -, -, rfl⟩ | ⟨l, -, -, rfl⟩ | ⟨k, -, -, rfl⟩ | ⟨d, rfl, -, rfl⟩ | ⟨b, -, rfl⟩
  · simp at ht
  · simp at ht
  · simp at ht
  · obtain ⟨rfl, hd, he⟩ := waitStep_of_appends_t ht
    exact ⟨rfl, hd, he, waitStep_expired hd he⟩
  · simp at ht

/-- The core's move makes the event T(n) only as the end of an armed WAIT(n) with the flag up. -/
theorem coreMove_of_appends_t (h : coreMove s = .next t) (ht : t.trace = s.trace ++ [.t n]) :
    ∃ ops, s.seq = .wait n :: ops ∧ s.dlState = .armed ∧ s.timer.expired = true ∧ t = popSeq (finishDelay n s) := by
  rcases coreMove_cases s with
    ⟨-, hc⟩ | ⟨-, op, ops, hs, hc⟩ | ⟨-, -, w, ws, -, hc⟩ | ⟨-, -, -, hc⟩ <;> rw [hc] at h
  · cases h
    simp at ht
  · obtain ⟨rfl, hfinished⟩ := microStep_of_appends_t h ht
    exact ⟨ops, hs, hfinished⟩
  · simp [acceptWord_keeps_trace h] at ht
  · cases h
    simp at ht

/-- A step makes the event T(n) only as the core's move that ends an armed WAIT(n) with the flag up. -/
theorem step_of_appends_t (h : step s = .next t) (ht : t.trace = s.trace ++ [.t n]) :
    ∃ ops, s.seq = .wait n :: ops ∧ s.dlState = .armed ∧ s.timer.expired = true ∧
      t = popSeq (finishDelay n (takeMove s)) := by
  rcases step_next h with
    ⟨-, hcore⟩ | ⟨k, -, rfl⟩ | ⟨-, -, rfl⟩ | ⟨w, -, rfl⟩ | ⟨-, rfl⟩ | ⟨ok, -, rfl⟩
  · exact coreMove_of_appends_t (s := takeMove s) hcore ht
  · simp at ht
  · simp at ht
  · simp at ht
  · simp at ht
  · simp at ht

end Sys2Proof.Machine

namespace Sys2Proof.Proofs

open Sys2Proof.Machine Sys2Proof.Config

/-- Settles O3: both counts are below 2^64, so holding them in 64 bits loses nothing. -/
theorem durationsConvertExactly : Obligations.DurationsConvertExactly :=
  fun rate d => ⟨microseconds_toNat rate d, milliseconds_toNat rate d, duration_us_lt rate d, duration_ms_lt rate d⟩

/-- Settles O32: neither delay needs Ready, so both pass the checks, and each expands to its one WAIT. -/
theorem delaysAreOneWait : Obligations.DelaysAreOneWait := by
  intro s d hm hf
  exact ⟨microseconds s.ticksPerUs d.toNat, milliseconds s.ticksPerUs d.toNat,
    exec_performed (i := .delayus d) rfl (by simp) hm hf (.inl rfl),
    exec_performed (i := .delayms d) rfl (by simp) hm hf (.inl rfl),
    microseconds_toNat _ d, milliseconds_toNat _ d, rfl, rfl, rfl, rfl⟩

/-- Settles O35: the step performs the WAIT, and DL_STATE and the flag say which of its three moves. -/
theorem waitRunsTheTimerHandshake : Obligations.WaitRunsTheTimerHandshake := by
  intro s t ops hm hr hf hs
  rw [step_wait hm hr hf hs]
  refine ⟨?arms, ?holds, ?finishes⟩
  case arms =>
    intro hd
    rw [waitStep_idle (s := takeMove s) hd]
    rfl
  case holds =>
    intro hd he
    rw [waitStep_unexpired (s := takeMove s) hd he]
    rfl
  case finishes =>
    intro hd he
    rw [waitStep_expired (s := takeMove s) hd he]
    simp only [popSeq, finishDelay, timerStop, takeMove, hs, List.tail_cons]

/-- Settles O36: the event ends an armed WAIT(n) with the flag up; the invariant adds that the timer was started with
n, and that the flag is up only once the count has passed. -/
theorem delayEventMeansTheCountPassed : Obligations.DelayEventMeansTheCountPassed := by
  intro s t n hinv hstep ht
  obtain ⟨ops, hs, harmed, hexpired, rfl⟩ := step_of_appends_t hstep ht
  obtain ⟨d, rest, hwait, hticks, hrun⟩ := hinv.armedWaits harmed
  obtain ⟨rfl, rfl⟩ : n = d ∧ ops = rest := by simpa [hs] using hwait
  exact ⟨harmed, hticks, hrun, hexpired, hinv.expiredDone hexpired, ops, hs, by simp [hs]⟩

/-- Settles O4: 125 times the microseconds of each wait, by evaluation. -/
theorem referenceWaitsHaveTheirTicks : Obligations.ReferenceWaitsHaveTheirTicks :=
  ⟨rfl, rfl, rfl, rfl⟩

end Sys2Proof.Proofs
end

section
/-! ### The enable pulse `Clock()` (41_enable_clock.md R130, R133) -/

namespace Sys2Proof.Machine

open Sys2Proof.Config

/-- A bit of a line's mask is that line's own bit of the port. -/
theorem lineOf_of_mask_bit {l : Line} {i : Nat} (hi : i < 8) (hmask : l.mask.getLsbD i = true) (v : Byte) :
    lineOf l v = v.getLsbD i := by
  have hbits : ∀ k : Line, ∀ j < 8, k.mask.getLsbD j = true →
      (k, j) ∈ [(Line.rw, 4), (.rs, 5), (.e, 6), (.test, 7)] := by
    intro k; cases k <;> decide
  have hmem := hbits l i hi hmask
  simp only [List.mem_cons, Prod.mk.injEq, List.not_mem_nil, or_false] at hmem
  obtain ⟨rfl, rfl⟩ | ⟨rfl, rfl⟩ | ⟨rfl, rfl⟩ | ⟨rfl, rfl⟩ := hmem <;> rfl

/-- CLR on a line that is already 0 writes the old port value. -/
theorem clrValue_of_low {l : Line} {v : Byte} (h : lineOf l v = false) : clrValue l v = v := by
  apply BitVec.eq_of_getLsbD_eq
  intro i hi
  rw [clrValue_bit]
  cases hmask : l.mask.getLsbD i with
  | false => simp
  | true => simp [← lineOf_of_mask_bit hi hmask, h]

/-- CLR undoes a SET of the same line. -/
@[simp] theorem clrValue_setValue (l : Line) (v : Byte) : clrValue l (setValue l v) = clrValue l v := by
  apply BitVec.eq_of_getLsbD_eq
  intro i _
  simp only [clrValue_bit, setValue_bit]
  cases l.mask.getLsbD i <;> simp

/-- The pulse leaves the port with E at 0 and every other line as it was. -/
theorem clockOps_port (rate : TickRate) (p : Byte) : promisedPort (clockOps rate) p = clrValue .e p :=
  clrValue_setValue .e p

/-- The pulse writes E to 1 and to 0, with 1 microsecond after each write. -/
theorem clockOps_events (rate : TickRate) (p : Byte) :
    promisedEvents (clockOps rate) p =
      [.w (setValue .e p), .t (microseconds rate 1), .w (clrValue .e p), .t (microseconds rate 1)] := by
  simp [clockOps]

end Sys2Proof.Machine

namespace Sys2Proof.Proofs

open Sys2Proof.Machine

/-- Settles O31: in Ready CLOCK passes its checks, and its pulse writes E to 1 and back to 0. -/
theorem clockPulsesEnableOnce : Obligations.ClockPulsesEnableOnce := by
  intro s hm hf hready
  exact ⟨clockOps s.ticksPerUs, exec_performed (i := .clock) rfl (by simp) hm hf (.inr hready), rfl,
    clockOps_events s.ticksPerUs s.port, fun he => (clockOps_port s.ticksPerUs s.port).trans (clrValue_of_low he)⟩

end Sys2Proof.Proofs
end

section
/-! ### The nibbles the controller latches, operation by operation (41_enable_clock.md R131) -/

namespace Sys2Proof.Machine

/-- A falling edge of E in the events of one micro-operation is seen from the port before it, and every later one from
the port it leaves. -/
theorem latches_opEvents_append (op : MicroOp) (p : Byte) (es : List Event) :
    latches p (opEvents op p ++ es) = latches p (opEvents op p) ++ latches (opPort op p) es := by
  have hwrite : ∀ v, latches p (.w v :: es) = latches p [.w v] ++ latches v es := by
    intro v
    by_cases h : fallingEdge p v = true <;> simp [latches, h]
  cases op with
  | set l => exact hwrite _
  | clr l => exact hwrite _
  | nib n => exact hwrite _
  | wait t => rfl
  | mark b => rfl

/-- The nibbles latched in two lists of micro-operations, one after the other. -/
theorem latches_promisedEvents_append (a b : List MicroOp) (p : Byte) :
    latches p (promisedEvents (a ++ b) p) =
      latches p (promisedEvents a p) ++ latches (promisedPort a p) (promisedEvents b (promisedPort a p)) := by
  induction a generalizing p with
  | nil => rfl
  | cons op a ih =>
    rw [List.cons_append, promisedEvents_cons, promisedEvents_cons, latches_opEvents_append, latches_opEvents_append,
      ih, promisedPort_cons, List.append_assoc]

end Sys2Proof.Machine
end

section
/-! ### The byte transfer `WriteByte(v)` (42_nibble_transfer.md R140 to R142) -/

namespace Sys2Proof.Machine

open Sys2Proof.Config

/-- NIB(n) as R142 writes it, q | n: the control lines of the port with n on the data lines. -/
theorem nibValue_eq (n : Nibble) (p : Byte) : nibValue n p = (p &&& 0xF0#8) ||| n.setWidth 8 := rfl

/-- Of two nibbles presented in a row the port holds the second. -/
@[simp] theorem nibValue_nibValue (m n : Nibble) (p : Byte) : nibValue m (nibValue n p) = nibValue m p := by
  have hdata : (n.setWidth 8 : Byte) &&& 0xF0#8 = 0#8 := by revert n; decide
  have hcontrol : (p &&& 0xF0#8) &&& 0xF0#8 = p &&& 0xF0#8 := by rw [BitVec.and_assoc, BitVec.and_self]
  simp only [nibValue_eq, BitVec.and_or_distrib_right, hdata, hcontrol, BitVec.or_zero]

/-- The low nibble as a port value (R62). -/
theorem lowNibble_setWidth (v : Byte) : (lowNibble v).setWidth 8 = v &&& 0x0F#8 := by
  have hmask : v.toNat &&& 0x0F = v.toNat % 16 := Nat.and_two_pow_sub_one_eq_mod v.toNat 4
  have hfits : v.toNat % 16 % 256 = v.toNat % 16 := by omega
  exact BitVec.eq_of_toNat_eq (by simp [lowNibble, hmask, hfits])

variable {p : Byte} (rate : TickRate) (n : Nibble) (v : Byte)

/-- From E at 0 a nibble's transfer leaves the nibble on the data lines and nothing else changed. -/
theorem nibbleOps_port (he : lineOf .e p = false) : promisedPort (nibbleOps rate n) p = nibValue n p := by
  have hlow : clrValue .e (nibValue n p) = nibValue n p := clrValue_of_low (by simpa using he)
  simp [nibbleOps, clockOps_port, hlow]

/-- From E at 0 a nibble's transfer presents the nibble, pulses E and settles. -/
theorem nibbleOps_events (he : lineOf .e p = false) :
    promisedEvents (nibbleOps rate n) p =
      [.w (nibValue n p), .w (setValue .e (nibValue n p)), .t (microseconds rate 1), .w (nibValue n p),
        .t (microseconds rate 1), .t (microseconds rate 100)] := by
  have hlow : clrValue .e (nibValue n p) = nibValue n p := clrValue_of_low (by simpa using he)
  simp [nibbleOps, clockOps_events, hlow]

/-- From E at 0 the controller latches the nibble once, in the register RS selects. -/
theorem nibbleOps_latches (he : lineOf .e p = false) :
    latches p (promisedEvents (nibbleOps rate n) p) = [(lineOf .rs p, n)] := by
  have hdata : dataOf (nibValue n p) = n := nibValue_low n p
  simp [nibbleOps_events rate n he, latches, fallingEdge, he, hdata]

/-- From E at 0 a byte transfer leaves the low nibble on the data lines and nothing else changed. -/
theorem writeByteOps_port (he : lineOf .e p = false) :
    promisedPort (writeByteOps rate v) p = (p &&& 0xF0#8) ||| (v &&& 0x0F#8) := by
  rw [writeByteOps, promisedPort_append, nibbleOps_port rate _ he, nibbleOps_port rate _ (by simpa using he),
    nibValue_nibValue, nibValue_eq, lowNibble_setWidth]

/-- From E at 0 a byte transfer is two nibble transfers, the second from the port the first leaves. -/
theorem writeByteOps_events (he : lineOf .e p = false) :
    promisedEvents (writeByteOps rate v) p = writeByteTrace rate p v := by
  rw [writeByteOps, promisedEvents_append, nibbleOps_port rate _ he, nibbleOps_events rate _ he,
    nibbleOps_events rate _ (by simpa using he), nibValue_nibValue]
  rfl

/-- The controller latches the high nibble, then the low one (R141), both in the register RS selects. -/
theorem writeByteOps_latches (he : lineOf .e p = false) :
    latches p (promisedEvents (writeByteOps rate v) p) =
      [(lineOf .rs p, highNibble v), (lineOf .rs p, lowNibble v)] := by
  rw [writeByteOps, latches_promisedEvents_append, nibbleOps_port rate _ he, nibbleOps_latches rate _ he,
    nibbleOps_latches rate _ (by simpa using he), lineOf_nibValue]
  rfl

/-- A byte transfer writes the port six times: each nibble is presented once, and E is driven to 1 and back to 0. -/
theorem writeByteTrace_writes (p : Byte) : writesIn (writeByteTrace rate p v) = 6 := rfl

/-- A byte transfer waits 2 * (1 + 1 + 100) microseconds. -/
theorem writeByteTrace_ticks (p : Byte) : ticksIn (writeByteTrace rate p v) = 204 * rate.val := by
  have hpulse : (microseconds rate 1).toNat = 1 * rate.val := microseconds_toNat rate 1#24
  have hsettle : (microseconds rate 100).toNat = 100 * rate.val := microseconds_toNat rate 100#24
  simp only [writeByteTrace, ticksIn, hpulse, hsettle]
  ring

end Sys2Proof.Machine

namespace Sys2Proof.Proofs

open Sys2Proof.Machine

/-- Settles O29: in Ready WRBYTE passes its checks, and its micro-operations are the byte transfer. -/
theorem wrbyteTransfersHighNibbleFirst : Obligations.WrbyteTransfersHighNibbleFirst := by
  intro s b hm hf hready he
  have htrace := writeByteOps_events s.ticksPerUs b he
  refine ⟨writeByteOps s.ticksPerUs b, exec_performed (i := .wrbyte b) rfl (by simp) hm hf (.inr hready), htrace,
    ?writes, ?ticks, writeByteOps_latches s.ticksPerUs b he, writeByteOps_port s.ticksPerUs b he⟩
  case writes => rw [htrace, writeByteTrace_writes]
  case ticks => rw [htrace, writeByteTrace_ticks]

end Sys2Proof.Proofs
end

section
/-! ### Register select, and the lines a word's micro-operations name (43_register_select.md R150, R151, R154) -/

namespace Sys2Proof.Machine

open Sys2Proof.Config

/-- What any command may put in SEQ: NIB, WAIT, and SET or CLR of E or RS. -/
def MicroOp.isShared : MicroOp → Bool
  | .set l => l = .e || l = .rs
  | .clr l => l = .e || l = .rs
  | .nib _ => true
  | .wait _ => true
  | .mark _ => false

/-- What INIT alone may put in SEQ besides (44_protocol_ops.md R160): CLR(M_RW) and the marks. -/
def MicroOp.isInitOnly : MicroOp → Bool
  | .set _ => false
  | .clr l => l = .rw
  | .nib _ => false
  | .wait _ => false
  | .mark _ => true

theorem MicroOp.isShared_iff (op : MicroOp) :
    op.isShared = true ↔ op = .set .e ∨ op = .set .rs ∨ op = .clr .e ∨ op = .clr .rs ∨ (∃ n, op = .nib n) ∨
      ∃ k, op = .wait k := by
  cases op <;> simp [isShared]

theorem MicroOp.isInitOnly_iff (op : MicroOp) : op.isInitOnly = true ↔ op = .clr .rw ∨ ∃ b, op = .mark b := by
  cases op <;> simp [isInitOnly]

/-- No word but INIT names RW or INIT_DONE, whatever its operands and the rate. -/
theorem expand_all_shared {i : Instr} (hi : i ≠ .init) (rate : TickRate) :
    (expand rate i).all MicroOp.isShared = true := by
  cases i with
  | init => exact absurd rfl hi
  | _ => rfl

theorem initOps_all_shared_or_initOnly (rate : TickRate) :
    (initOps rate).all (fun op => op.isShared || op.isInitOnly) = true := rfl

/-- A word's micro-operation is one that any command may use, or the word is INIT. -/
theorem shared_or_initOnly_of_mem_expand {rate : TickRate} {i : Instr} {op : MicroOp} (h : op ∈ expand rate i) :
    op.isShared = true ∨ i = .init ∧ op.isInitOnly = true := by
  by_cases hi : i = .init
  · subst hi
    have hop := List.all_eq_true.1 (initOps_all_shared_or_initOnly rate) op h
    exact (Bool.or_eq_true_iff.1 hop).imp_right fun hinit => ⟨rfl, hinit⟩
  · exact .inl (List.all_eq_true.1 (expand_all_shared hi rate) op h)

/-- After the meaning of an instruction SEQ is as it was, or holds the micro-operations of the instruction or, in a
string, of a payload byte. -/
theorem exec_seq {i : Instr} {s t : State} (h : exec i s = .next t) :
    t.seq = s.seq ∨ t.seq = expand s.ticksPerUs i ∨ ∃ b, t.seq = expand s.ticksPerUs (.payloadByte b) := by
  obtain ⟨t', ht', hkind⟩ := exec_cases i s
  obtain rfl : t' = t := Host.Outcome.next.inj (ht'.symm.trans h)
  rcases hkind with rfl | ⟨m, -, rfl⟩ | ⟨m, -, -, -, -, rfl⟩ | ⟨-, -, rfl⟩ | ⟨m, -, -, -, rfl⟩ | ⟨b, -, rfl⟩
  · exact .inl rfl
  · exact .inl rfl
  · exact .inl rfl
  · exact .inl rfl
  · exact .inr (.inl rfl)
  · exact .inr (.inr ⟨b, rfl⟩)

/-! The two procedures, from any port: RS is written whatever it was. -/

theorem selectCmdOps_port (rate : TickRate) (p : Byte) : promisedPort (selectCmdOps rate) p = p &&& 0xDF#8 := rfl

theorem selectCmdOps_events (rate : TickRate) (p : Byte) :
    promisedEvents (selectCmdOps rate) p = [.w (p &&& 0xDF#8), .t (microseconds rate 1)] := rfl

theorem selectDataOps_port (rate : TickRate) (p : Byte) : promisedPort (selectDataOps rate) p = p ||| 0x20#8 := rfl

theorem selectDataOps_events (rate : TickRate) (p : Byte) :
    promisedEvents (selectDataOps rate) p = [.w (p ||| 0x20#8), .t (microseconds rate 1)] := rfl

end Sys2Proof.Machine

namespace Sys2Proof.Proofs

open Sys2Proof.Machine

/-- Settles O20: SEQ, empty before, holds the micro-operations of one word, and those are shared but in INIT. -/
theorem onlyInitNamesRwAndInitDone : Obligations.OnlyInitNamesRwAndInitDone := by
  intro i s t op hexec hs hop
  suffices h : op.isShared = true ∨ i = .init ∧ op.isInitOnly = true by
    simpa only [MicroOp.isShared_iff, MicroOp.isInitOnly_iff, or_assoc] using h
  rcases exec_seq hexec with hseq | hseq | ⟨b, hseq⟩ <;> rw [hseq] at hop
  · simp [hs] at hop
  · exact shared_or_initOnly_of_mem_expand hop
  · exact .inl (List.all_eq_true.1 (expand_all_shared (by simp) _) op hop)

/-- Settles O30: in Ready both commands pass their checks, and each is its procedure alone. -/
theorem selectsWriteAndSettle : Obligations.SelectsWriteAndSettle := by
  intro s hm hf hready
  constructor
  · exact ⟨selectCmdOps s.ticksPerUs, exec_performed (i := .selcmd) rfl (by simp) hm hf (.inr hready), rfl,
      selectCmdOps_events s.ticksPerUs s.port, selectCmdOps_port s.ticksPerUs s.port⟩
  · exact ⟨selectDataOps s.ticksPerUs, exec_performed (i := .seldata) rfl (by simp) hm hf (.inr hready), rfl,
      selectDataOps_events s.ticksPerUs s.port, selectDataOps_port s.ticksPerUs s.port⟩

end Sys2Proof.Proofs
end

section
/-! ### Accepting a word against the procedure accept(w) (44_protocol_ops.md R170, R172) -/

namespace Sys2Proof.Machine

variable {s : State} {w : Word}

/-! In a string, where a word is read by TERM and BYTE alone. -/

/-- A terminator ends a string, sent or discarded. -/
theorem acceptWord_end (hm : s.mode ≠ .cmd) (ht : termField w = true) :
    acceptWord w s = .next { s with mode := .cmd } := by
  rw [acceptWord_instr ((decode_payload hm w).trans (congrArg _ (decodePayload_end ht)))]
  rcases acceptEnd_cases (encode .payloadEnd) s with ⟨-, hend⟩ | ⟨hcmd, -⟩
  · exact congrArg _ hend
  · exact absurd hcmd hm

/-- A payload byte word is its byte. -/
theorem acceptWord_byte (hm : s.mode ≠ .cmd) (ht : termField w = false) :
    acceptWord w s = .next (acceptByte (encode (.payloadByte (byteField w))) (byteField w) s) :=
  acceptWord_instr ((decode_payload hm w).trans (congrArg _ (decodePayload_byte ht)))

theorem acceptSpec_str (hm : s.mode = .str) :
    acceptSpec w s =
      if termField w then { s with mode := .cmd } else { s with seq := writeByteOps s.ticksPerUs (byteField w) } :=
  if_pos hm

theorem acceptSpec_discard (hm : s.mode = .discard) :
    acceptSpec w s = if termField w then { s with mode := .cmd } else s :=
  (if_neg (by simp [hm])).trans (if_pos hm)

/-! In MODE = CMD, where a word is a command or illegal. -/

theorem acceptSpec_illegal {r : IllegalReason} (hm : s.mode = .cmd) (hd : decode .cmd w = .illegal r) :
    acceptSpec w s = raiseIllegal w s := by
  simp [acceptSpec, hm, hd]

/-- On a legal command the procedure makes the checks of `checkCommand`, in the same order. -/
theorem acceptSpec_command {i : Instr} (hm : s.mode = .cmd) (hd : decode .cmd w = .instr i) :
    acceptSpec w s = checkCommand i (expand s.ticksPerUs i) (if i = .putstr then .discard else .cmd)
      (if i = .putstr then .str else .cmd) s := by
  obtain ⟨rfl, -⟩ := encode_of_decodeCommand hd
  by_cases hi : i = .putstr
  · subst hi
    simp [acceptSpec, checkCommand, hm, hd]
  · have hself : { s with mode := Mode.cmd } = s := by rw [← hm]
    simp [acceptSpec, checkCommand, hm, hd, hi, hself]

end Sys2Proof.Machine

namespace Sys2Proof.Proofs

open Sys2Proof.Machine

/-- Settles O14: in a string both sides read TERM and BYTE; in MODE = CMD both record an illegal word, and both put a
legal one through the same checks. -/
theorem acceptanceFollowsTheProcedure : Obligations.AcceptanceFollowsTheProcedure := by
  intro w s
  cases hm : s.mode with
  | str =>
    rw [acceptSpec_str hm]
    cases ht : termField w with
    | true => exact acceptWord_end (by simp [hm]) ht
    | false => simp [acceptWord_byte (s := s) (by simp [hm]) ht, acceptByte, hm]
  | discard =>
    rw [acceptSpec_discard hm]
    cases ht : termField w with
    | true => exact acceptWord_end (by simp [hm]) ht
    | false => simp [acceptWord_byte (s := s) (by simp [hm]) ht, acceptByte, hm]
  | cmd =>
    cases hd : decode .cmd w with
    | illegal r => rw [acceptSpec_illegal hm hd, acceptWord_illegal (by rw [hm, hd])]
    | instr i =>
      obtain ⟨-, hi⟩ := encode_of_decodeCommand hd
      rw [acceptSpec_command hm hd, acceptWord_instr (by rw [hm, hd]), exec_command i s hi hm]

end Sys2Proof.Proofs
end

section
/-! ### One byte to one register: a selection and a transfer (44_protocol_ops.md R161 to R165) -/

namespace Sys2Proof.Machine

open Sys2Proof.Config

/-- In Ready the header of a string fills SEQ with its selection and enters STR (R164). -/
theorem exec_putstr_in_ready {s : State} (hm : s.mode = .cmd) (hf : s.failed = false) (hready : s.initDone = true) :
    exec .putstr s = .next { s with seq := expand s.ticksPerUs .putstr, mode := .str } := by
  rw [exec_command .putstr s rfl hm]
  simp [checkCommand, hf, hready]

/-- A payload byte of a string fills SEQ with its transfer, and the string goes on (R164). -/
theorem exec_payloadByte_in_string {s : State} (b : Byte) (hm : s.mode = .str) :
    exec (.payloadByte b) s = .next { s with seq := expand s.ticksPerUs (.payloadByte b) } := by
  simp [exec, execPayloadByte, acceptByte, hm, expand]

/-- The terminator of a string only ends it (R164). -/
theorem exec_payloadEnd_in_string {s : State} (hm : s.mode = .str) :
    exec .payloadEnd s = .next { s with mode := .cmd } := by
  simp [exec, execPayloadEnd, acceptEnd, hm]

variable {p : Byte} (rate : TickRate) (v : Byte)

/-- A selection leaves E as it was. -/
theorem selectCmdOps_eLow (he : lineOf .e p = false) : lineOf .e (p &&& 0xDF#8) = false := by
  have h := lineOf_clrValue .e .rs p
  rwa [he] at h

theorem selectDataOps_eLow (he : lineOf .e p = false) : lineOf .e (p ||| 0x20#8) = false := by
  have h := lineOf_setValue .e .rs p
  rwa [he] at h

/-- From E at 0, a byte to the command register is the selection's write and wait and the byte's transfer. -/
theorem sendCmd_events (he : lineOf .e p = false) :
    promisedEvents (selectCmdOps rate ++ writeByteOps rate v) p =
      [.w (p &&& 0xDF#8), .t (microseconds rate 1)] ++ writeByteTrace rate (p &&& 0xDF#8) v := by
  rw [promisedEvents_append, selectCmdOps_port, writeByteOps_events rate v (selectCmdOps_eLow he),
    selectCmdOps_events]

/-- It leaves RS at 0 and the low nibble on the data lines. -/
theorem sendCmd_port (he : lineOf .e p = false) :
    promisedPort (selectCmdOps rate ++ writeByteOps rate v) p = (p &&& 0xD0#8) ||| (v &&& 0x0F#8) := by
  rw [promisedPort_append, selectCmdOps_port, writeByteOps_port rate v (selectCmdOps_eLow he), BitVec.and_assoc]
  rfl

/-- From E at 0, a byte to the data register is the selection's write and wait and the byte's transfer. -/
theorem sendData_events (he : lineOf .e p = false) :
    promisedEvents (selectDataOps rate ++ writeByteOps rate v) p =
      [.w (p ||| 0x20#8), .t (microseconds rate 1)] ++ writeByteTrace rate (p ||| 0x20#8) v := by
  rw [promisedEvents_append, selectDataOps_port, writeByteOps_events rate v (selectDataOps_eLow he),
    selectDataOps_events]

/-- It leaves RS at 1 and the low nibble on the data lines. -/
theorem sendData_port (he : lineOf .e p = false) :
    promisedPort (selectDataOps rate ++ writeByteOps rate v) p = ((p ||| 0x20#8) &&& 0xF0#8) ||| (v &&& 0x0F#8) := by
  rw [promisedPort_append, selectDataOps_port, writeByteOps_port rate v (selectDataOps_eLow he)]

/-- A display clear is 0x01 to the command register, and a wait (R161). -/
theorem clearOps_events (he : lineOf .e p = false) :
    promisedEvents (clearOps rate) p =
      [.w (p &&& 0xDF#8), .t (microseconds rate 1)] ++ writeByteTrace rate (p &&& 0xDF#8) 0x01#8
        ++ [.t (milliseconds rate 2)] := by
  rw [clearOps, promisedEvents_append, sendCmd_events rate _ he]
  rfl

theorem clearOps_port (he : lineOf .e p = false) :
    promisedPort (clearOps rate) p = (p &&& 0xD0#8) ||| 0x01#8 := by
  rw [clearOps, promisedPort_append, sendCmd_port rate _ he]
  rfl

/-- The six address bits of a column are its value modulo 64. -/
theorem columnAddress_toNat (col : Byte) : (columnAddress col).toNat = col.toNat % 64 := by
  rw [columnAddress, BitVec.toNat_and]
  exact Nat.and_two_pow_sub_one_eq_mod col.toNat 6

/-- The line's base is a multiple of 64, so the column only fills the bits below it (R162). -/
theorem gotoByte_toNat (line : BitVec 1) (col : Byte) :
    (gotoByte line col).toNat = (if line = 0#1 then 0x80 else 0xC0) + col.toNat % 64 := by
  have hfits : col.toNat % 64 < 2 ^ 6 := Nat.mod_lt _ (by decide)
  rw [gotoByte, BitVec.toNat_or, columnAddress_toNat]
  split
  · exact (Nat.shiftLeft_add_eq_or_of_lt hfits 2).symm
  · exact (Nat.shiftLeft_add_eq_or_of_lt hfits 3).symm

/-- SET on a line that is already 1 writes the old port value. -/
theorem setValue_of_high {l : Line} {v : Byte} (h : lineOf l v = true) : setValue l v = v := by
  apply BitVec.eq_of_getLsbD_eq
  intro i hi
  rw [setValue_bit]
  cases hmask : l.mask.getLsbD i with
  | false => simp
  | true => simp [← lineOf_of_mask_bit hi hmask, h]

/-- From E at 0 a byte transfer leaves the control lines as they were. -/
theorem lineOf_writeByteOps (k : Line) (he : lineOf .e p = false) :
    lineOf k (promisedPort (writeByteOps rate v) p) = lineOf k p := by
  rw [writeByteOps, promisedPort_append, nibbleOps_port rate _ he, nibbleOps_port rate _ (by simpa using he)]
  simp

/-- After a byte to the data register, selecting that register again writes the old port value. -/
theorem selectDataOps_port_after_sendData (he : lineOf .e p = false) :
    promisedPort (selectDataOps rate) (promisedPort (selectDataOps rate ++ writeByteOps rate v) p) =
      promisedPort (selectDataOps rate ++ writeByteOps rate v) p := by
  refine setValue_of_high (l := .rs) ?_
  rw [promisedPort_append, selectDataOps_port, lineOf_writeByteOps rate v .rs (selectDataOps_eLow he)]
  simp [lineOf]

end Sys2Proof.Machine

namespace Sys2Proof.Proofs

open Sys2Proof.Machine Sys2Proof.Config

/-- Settles O23: in Ready CLEAR passes its checks, and its micro-operations are the display clear. -/
theorem clearSendsOneTransferOfOne : Obligations.ClearSendsOneTransferOfOne := by
  intro s hm hf hready he
  exact ⟨clearOps s.ticksPerUs, exec_performed (i := .clear) rfl (by simp) hm hf (.inr hready),
    clearOps_events s.ticksPerUs he, clearOps_port s.ticksPerUs he⟩

/-- Settles O24: in Ready GOTO passes its checks, and sends its command byte to the command register. -/
theorem gotoSendsTheAddressCommand : Obligations.GotoSendsTheAddressCommand := by
  intro s line col hm hf hready he
  exact ⟨_, gotoByte line col, exec_performed (i := .goto line col) rfl (by simp) hm hf (.inr hready),
    gotoByte_toNat line col, sendCmd_events s.ticksPerUs _ he, sendCmd_port s.ticksPerUs _ he⟩

/-- Settles O25: in Ready PUTCHAR passes its checks, and sends its byte to the data register. -/
theorem putcharSendsItsByteAsData : Obligations.PutcharSendsItsByteAsData := by
  intro s b hm hf hready he
  exact ⟨_, exec_performed (i := .putchar b) rfl (by simp) hm hf (.inr hready),
    sendData_events s.ticksPerUs b he, sendData_port s.ticksPerUs b he⟩

/-- Settles O26: in Ready WRCMD passes its checks, and sends its byte to the command register. -/
theorem wrcmdSendsItsByteAsCommand : Obligations.WrcmdSendsItsByteAsCommand := by
  intro s b hm hf hready he
  exact ⟨_, exec_performed (i := .wrcmd b) rfl (by simp) hm hf (.inr hready),
    sendCmd_events s.ticksPerUs b he, sendCmd_port s.ticksPerUs b he⟩

/-- Settles O27: the header passes its checks in Ready; the words of the string are read in STR, with no check. -/
theorem stringWordsDoTheirParts : Obligations.StringWordsDoTheirParts := by
  refine ⟨fun s hm hf hready => exec_putstr_in_ready hm hf hready, fun s b hm he => ?_,
    fun s hm => exec_payloadEnd_in_string hm⟩
  exact ⟨_, exec_payloadByte_in_string b hm, writeByteOps_events s.ticksPerUs b he,
    writeByteOps_port s.ticksPerUs b he⟩

/-- Settles O28: both begin with a byte to the data register and end with the transfer of the second byte; the second
selection between them writes the port value that is already there. -/
theorem stringDiffersFromCharsByOneSelect : Obligations.StringDiffersFromCharsByOneSelect := by
  intro rate p a b he
  have hport := sendData_port rate a he
  have hselect := selectDataOps_port_after_sendData rate a he
  refine ⟨promisedEvents (selectDataOps rate ++ writeByteOps rate a) p,
    promisedEvents (writeByteOps rate b) (promisedPort (selectDataOps rate ++ writeByteOps rate a) p), ?string, ?chars,
    ?port⟩
  case string => exact promisedEvents_append _ _ p
  case chars =>
    have hwrite : promisedEvents (selectDataOps rate) (promisedPort (selectDataOps rate ++ writeByteOps rate a) p) =
        [.w (((p ||| 0x20#8) &&& 0xF0#8) ||| (a &&& 0x0F#8)), .t (microseconds rate 1)] := by
      rw [selectDataOps_events, ← selectDataOps_port rate, hselect, hport]
    simp only [expand]
    rw [promisedEvents_append, promisedEvents_append (selectDataOps rate) (writeByteOps rate b), hwrite, hselect,
      List.append_assoc]
  case port =>
    simp only [expand]
    rw [promisedPort_append, promisedPort_append _ (selectDataOps rate ++ writeByteOps rate b),
      promisedPort_append (selectDataOps rate) (writeByteOps rate b), hselect]

end Sys2Proof.Proofs
end

section
/-! ### The table of R174: writes, pulses and minimum time, part by part (44_protocol_ops.md R174) -/

namespace Sys2Proof.Machine

open Sys2Proof.Config

/-- From every port with E = 0 the micro-operations make c.1 `W` events, c.2.1 pulses and c.2.2 microseconds, and
leave E at 0, so that what follows them costs what it costs by itself. -/
structure HasCost (rate : TickRate) (ops : List MicroOp) (c : Nat × Nat × Nat) : Prop where
  writes : ∀ p, lineOf .e p = false → writesIn (promisedEvents ops p) = c.1
  pulses : ∀ p, lineOf .e p = false → (latches p (promisedEvents ops p)).length = c.2.1
  ticks : ∀ p, lineOf .e p = false → ticksIn (promisedEvents ops p) = c.2.2 * rate.val
  eLow : ∀ p, lineOf .e p = false → lineOf .e (promisedPort ops p) = false

theorem writesIn_append (a b : List Event) : writesIn (a ++ b) = writesIn a + writesIn b := by
  induction a with
  | nil => simp [writesIn]
  | cons e a ih => cases e <;> simp [writesIn, ih]; omega

theorem ticksIn_append (a b : List Event) : ticksIn (a ++ b) = ticksIn a + ticksIn b := by
  induction a with
  | nil => simp [ticksIn]
  | cons e a ih => cases e <;> simp [ticksIn, ih]; omega

variable {rate : TickRate} {a b : List MicroOp} {c d : Nat × Nat × Nat}

/-- Costs add up. -/
theorem HasCost.append (ha : HasCost rate a c) (hb : HasCost rate b d) : HasCost rate (a ++ b) (c + d) where
  writes p he := by
    rw [promisedEvents_append, writesIn_append, ha.writes p he, hb.writes _ (ha.eLow p he)]
    rfl
  pulses p he := by
    rw [latches_promisedEvents_append, List.length_append, ha.pulses p he, hb.pulses _ (ha.eLow p he)]
    rfl
  ticks p he := by
    rw [promisedEvents_append, ticksIn_append, ha.ticks p he, hb.ticks _ (ha.eLow p he), ← Nat.add_mul]
    rfl
  eLow p he := by
    rw [promisedPort_append]
    exact hb.eLow _ (ha.eLow p he)

theorem hasCost_nil : HasCost rate [] (0, 0, 0) := by
  constructor <;> simp [writesIn, latches, ticksIn]

/-- A mark costs nothing. -/
theorem hasCost_mark (b : Bool) : HasCost rate [.mark b] (0, 0, 0) := by
  constructor <;> simp [writesIn, latches, ticksIn]

/-- A write that does not raise E is one `W` event and no pulse. -/
theorem hasCost_write {op : MicroOp} {f : Byte → Byte} (hevents : ∀ p, opEvents op p = [.w (f p)])
    (hport : ∀ p, opPort op p = f p) (he : ∀ p, lineOf .e p = false → lineOf .e (f p) = false) :
    HasCost rate [op] (1, 0, 0) where
  writes p _ := by simp [hevents, writesIn]
  pulses p h := by simp [hevents, latches, fallingEdge, h]
  ticks p _ := by simp [hevents, ticksIn]
  eLow p h := by simpa [hport] using he p h

theorem hasCost_clr (l : Line) : HasCost rate [.clr l] (1, 0, 0) :=
  hasCost_write (fun _ => rfl) (fun _ => rfl) (fun _ h => by simp [h])

theorem hasCost_set_rs : HasCost rate [.set .rs] (1, 0, 0) :=
  hasCost_write (fun _ => rfl) (fun _ => rfl) (fun _ h => by simp [h])

theorem hasCost_nib (n : Nibble) : HasCost rate [.nib n] (1, 0, 0) :=
  hasCost_write (fun _ => rfl) (fun _ => rfl) (fun _ h => by simp [h])

/-- A WAIT is its ticks. -/
theorem hasCost_wait {t : Ticks} {us : Nat} (ht : t.toNat = us * rate.val) : HasCost rate [.wait t] (0, 0, us) where
  writes _ _ := rfl
  pulses _ _ := rfl
  ticks _ _ := by simp [ticksIn, ht]
  eLow _ he := he

theorem hasCost_microseconds (d : Duration) :
    HasCost rate [.wait (microseconds rate d.toNat)] (0, 0, d.toNat) :=
  hasCost_wait (microseconds_toNat rate d)

theorem hasCost_milliseconds (d : Duration) :
    HasCost rate [.wait (milliseconds rate d.toNat)] (0, 0, 1000 * d.toNat) :=
  hasCost_wait (by rw [milliseconds_toNat, Nat.mul_comm d.toNat])

/-- The enable pulse is two writes with 1 microsecond after each. -/
theorem hasCost_clockOps : HasCost rate (clockOps rate) (2, 1, 2) where
  writes p _ := by simp [clockOps_events, writesIn]
  pulses p he := by simp [clockOps_events, latches, fallingEdge, he]
  ticks p _ := by
    have hus : (microseconds rate 1).toNat = 1 * rate.val := microseconds_toNat rate 1#24
    simp [clockOps_events, ticksIn, hus]
    omega
  eLow p _ := clockOps_eLow rate p

theorem hasCost_writeByteOps (v : Byte) : HasCost rate (writeByteOps rate v) (6, 2, 204) where
  writes p he := by rw [writeByteOps_events rate v he, writeByteTrace_writes]
  pulses p he := by simp [writeByteOps_latches rate v he]
  ticks p he := by rw [writeByteOps_events rate v he, writeByteTrace_ticks]
  eLow p _ := writeByteOps_eLow rate v p

theorem hasCost_selectCmdOps : HasCost rate (selectCmdOps rate) (1, 0, 1) :=
  (hasCost_clr .rs).append (hasCost_microseconds 1#24)

theorem hasCost_selectDataOps : HasCost rate (selectDataOps rate) (1, 0, 1) :=
  hasCost_set_rs.append (hasCost_microseconds 1#24)

theorem hasCost_clearOps : HasCost rate (clearOps rate) (7, 2, 2205) :=
  (hasCost_selectCmdOps.append (hasCost_writeByteOps _)).append (hasCost_milliseconds 2#24)

/-- INIT is step 1's writes and wait, the nibble with its three pulses and a wait, three bytes and a display clear. -/
theorem hasCost_initOps : HasCost rate (initOps rate) (34, 11, 32823) := by
  have hstart : HasCost rate [.mark false, .clr .rw, .clr .rs, .wait (milliseconds rate 15)] (2, 0, 15000) :=
    (((hasCost_mark false).append (hasCost_clr .rw)).append (hasCost_clr .rs)).append (hasCost_milliseconds 15#24)
  exact hstart.append (hasCost_nib 0x2#4) |>.append hasCost_clockOps |>.append hasCost_clockOps
    |>.append hasCost_clockOps |>.append (hasCost_milliseconds 15#24)
    |>.append (hasCost_writeByteOps 0x28#8) |>.append (hasCost_writeByteOps 0x0C#8)
    |>.append (hasCost_writeByteOps 0x06#8) |>.append hasCost_clearOps |>.append (hasCost_mark true)

/-- Every word's micro-operations cost what its row of R174 says. -/
theorem hasCost_expand (i : Instr) : HasCost rate (expand rate i) (commandCost i) := by
  cases i with
  | init => exact hasCost_initOps
  | clear => exact hasCost_clearOps
  | goto l c => exact hasCost_selectCmdOps.append (hasCost_writeByteOps _)
  | putchar b => exact hasCost_selectDataOps.append (hasCost_writeByteOps b)
  | putstr => exact hasCost_selectDataOps
  | wrcmd b => exact hasCost_selectCmdOps.append (hasCost_writeByteOps b)
  | wrbyte b => exact hasCost_writeByteOps b
  | selcmd => exact hasCost_selectCmdOps
  | seldata => exact hasCost_selectDataOps
  | clock => exact hasCost_clockOps
  | delayus d => exact hasCost_microseconds d
  | delayms d => exact hasCost_milliseconds d
  | payloadByte b => exact hasCost_writeByteOps b
  | payloadEnd => exact hasCost_nil

/-- A word performed in a mode it is a word of fills SEQ; the header and the terminator of a string change MODE. -/
theorem exec_wellFormed_in_ready {i : Instr} {s : State} (hf : s.failed = false) (hready : s.initDone = true)
    (hm : s.mode ≠ .discard) (hi : i.wellFormed s.mode = true) (hs : s.seq = []) :
    exec i s = .next { s with
      seq := expand s.ticksPerUs i
      mode := if i = .putstr then .str else if i = .payloadEnd then .cmd else s.mode } := by
  cases hmode : s.mode with
  | discard => exact absurd hmode hm
  | str =>
    cases i with
    | payloadByte b => simp [exec_payloadByte_in_string b hmode, hmode]
    | payloadEnd => simp [exec_payloadEnd_in_string hmode, expand, hs]
    | _ => simp [hmode, Instr.wellFormed, Instr.isPayload] at hi
  | cmd =>
    have hcommand : i.isPayload = false := by simpa [hmode, Instr.wellFormed] using hi
    by_cases hstr : i = .putstr
    · subst hstr
      simp [exec_putstr_in_ready hmode hf hready]
    · have hend : i ≠ .payloadEnd := by rintro rfl; cases hcommand
      simp [exec_performed hcommand hstr hmode hf (.inr hready), hstr, hend, hmode]

end Sys2Proof.Machine

namespace Sys2Proof.Proofs

open Sys2Proof.Machine

/-- Settles O19: the word fills SEQ with its micro-operations, whose cost is the sum over their parts. -/
theorem everyCommandHasItsCost : Obligations.EveryCommandHasItsCost := by
  intro i s hf hready hm hi hs he
  have hcost := hasCost_expand (rate := s.ticksPerUs) i
  exact ⟨_, exec_wellFormed_in_ready hf hready hm hi hs, hcost.writes _ he, hcost.pulses _ he, hcost.ticks _ he⟩

end Sys2Proof.Proofs
end

section
/-! ### INIT between its marks (44_protocol_ops.md R160) -/

namespace Sys2Proof.Machine

open Sys2Proof.Config

/-- Steps 1 to 4 of INIT: RW and RS to 0, a wait, the nibble 2 with three pulses, and a wait. -/
def initResetOps (rate : TickRate) : List MicroOp :=
  [.clr .rw, .clr .rs, .wait (milliseconds rate 15), .nib 0x2#4]
    ++ (clockOps rate ++ (clockOps rate ++ (clockOps rate ++ [.wait (milliseconds rate 15)])))

/-- Steps 5 to 8 of INIT: the bytes 0x28, 0x0C and 0x06, and a display clear. -/
def initBytesOps (rate : TickRate) : List MicroOp :=
  writeByteOps rate 0x28#8 ++ (writeByteOps rate 0x0C#8 ++ (writeByteOps rate 0x06#8 ++ clearOps rate))

/-- Steps 1 to 8 of INIT. -/
def initBodyOps (rate : TickRate) : List MicroOp := initResetOps rate ++ initBytesOps rate

/-- INIT is its steps 1 to 8 between its two marks. -/
theorem expand_init_eq (rate : TickRate) :
    expand rate .init = [.mark false] ++ initBodyOps rate ++ [.mark true] := by
  simp [expand, initOps, initBodyOps, initResetOps, initBytesOps]

/-- Marks make no event. -/
theorem promisedEvents_between_marks (a b : Bool) (ops : List MicroOp) (p : Byte) :
    promisedEvents ([.mark a] ++ ops ++ [.mark b]) p = promisedEvents ops p := by
  simp

theorem mark_notMem_initBodyOps (rate : TickRate) (b : Bool) : MicroOp.mark b ∉ initBodyOps rate := by
  simp [initBodyOps, initResetOps, initBytesOps, clockOps]

variable (rate : TickRate) {p : Byte}

/-! One pulse, one clear. -/

/-- From E at 0 a pulse leaves the port as it was. -/
theorem clockOps_port_of_low (he : lineOf .e p = false) : promisedPort (clockOps rate) p = p :=
  (clockOps_port rate p).trans (clrValue_of_low he)

/-- From E at 0 a pulse latches what is on the data lines. -/
theorem clockOps_latches (he : lineOf .e p = false) :
    latches p (promisedEvents (clockOps rate) p) = [(lineOf .rs p, dataOf p)] := by
  simp [clockOps_events, clrValue_of_low he, latches, fallingEdge, he]

/-- From E at 0 a display clear latches 0 and 1 in the command register. -/
theorem clearOps_latches (he : lineOf .e p = false) :
    latches p (promisedEvents (clearOps rate) p) = [(false, 0x0#4), (false, 0x1#4)] := by
  have hselect : latches p (promisedEvents (selectCmdOps rate) p) = [] := by
    simp [selectCmdOps, latches, fallingEdge, he]
  have hrs : lineOf .rs (p &&& 0xDF#8) = false := (lineOf_clrValue .rs .rs p).trans (by simp)
  rw [clearOps, latches_promisedEvents_append, latches_promisedEvents_append, hselect, selectCmdOps_port,
    writeByteOps_latches rate _ (selectCmdOps_eLow he), hrs]
  rfl

/-! Steps 1 to 4. -/

/-- The port step 3 presents: the nibble 2, with RW and RS at 0 and the other lines as they were. -/
def initPort (p : Byte) : Byte := nibValue 0x2#4 (p &&& 0xCF#8)

theorem initPort_eq (p : Byte) : initPort p = nibValue 0x2#4 (clrValue .rs (clrValue .rw p)) := by
  rw [initPort, clrValue, clrValue, BitVec.and_assoc]
  rfl

theorem initPort_eLow (he : lineOf .e p = false) : lineOf .e (initPort p) = false := by
  simp [initPort_eq, he]

theorem initPort_rsLow (p : Byte) : lineOf .rs (initPort p) = false := by
  simp [initPort_eq]

/-- With E and TEST at 0 no line keeps its old level, so the port is the nibble alone. -/
theorem initPort_of_low (he : lineOf .e p = false) (ht : lineOf .test p = false) : initPort p = 0x02#8 := by
  have hp : (p &&& 0xBF#8) &&& 0x7F#8 = p := by
    rw [show p &&& 0xBF#8 = p from clrValue_of_low he]
    exact clrValue_of_low ht
  have hcontrol : (p &&& 0xCF#8) &&& 0xF0#8 = 0#8 := by
    rw [← hp]
    simp [BitVec.and_assoc]
  rw [initPort, nibValue_eq, hcontrol]
  rfl

theorem initResetOps_port (he : lineOf .e p = false) : promisedPort (initResetOps rate) p = initPort p := by
  have hclock := clockOps_port_of_low rate (initPort_eLow he)
  simp [initResetOps, ← initPort_eq, hclock]

theorem initResetOps_events (he : lineOf .e p = false) :
    promisedEvents (initResetOps rate) p =
      [.w (p &&& 0xEF#8), .w (p &&& 0xCF#8), .t (milliseconds rate 15), .w (initPort p)]
        ++ clockTrace rate (initPort p) ++ clockTrace rate (initPort p) ++ clockTrace rate (initPort p)
        ++ [.t (milliseconds rate 15)] := by
  have hclock := clockOps_port_of_low rate (initPort_eLow he)
  have hpulse : promisedEvents (clockOps rate) (initPort p) = clockTrace rate (initPort p) := clockOps_events rate _
  have hrw : clrValue .rw p = p &&& 0xEF#8 := rfl
  have hrs : clrValue .rs (clrValue .rw p) = p &&& 0xCF#8 := by
    rw [clrValue, clrValue, BitVec.and_assoc]
    rfl
  simp [initResetOps, ← initPort_eq, hclock, hpulse, ← hrw, ← hrs]

/-- The nibble 2 is latched at each of the three pulses. -/
theorem initResetOps_latches (he : lineOf .e p = false) :
    latches p (promisedEvents (initResetOps rate) p) = [(false, 0x2#4), (false, 0x2#4), (false, 0x2#4)] := by
  have hlow := initPort_eLow he
  have hdata : dataOf (initPort p) = 0x2#4 := nibValue_low _ _
  have hport : promisedPort [.clr .rw, .clr .rs, .wait (milliseconds rate 15), .nib 0x2#4] p = initPort p :=
    (initPort_eq p).symm
  have hstart : latches p (promisedEvents [.clr .rw, .clr .rs, .wait (milliseconds rate 15), .nib 0x2#4] p) = [] := by
    simp [latches, fallingEdge, he]
  simp only [initResetOps, latches_promisedEvents_append, hstart, hport, clockOps_port_of_low rate hlow,
    clockOps_latches rate hlow, initPort_rsLow, hdata]
  rfl

/-! Steps 5 to 8. -/

/-- From the port 0x02 the three bytes leave the ports 0x08, 0x0C and 0x06 behind them. -/
theorem initBytesOps_ports :
    promisedPort (writeByteOps rate 0x28#8) 0x02#8 = 0x08#8 ∧
    promisedPort (writeByteOps rate 0x0C#8) 0x08#8 = 0x0C#8 ∧
    promisedPort (writeByteOps rate 0x06#8) 0x0C#8 = 0x06#8 :=
  ⟨writeByteOps_port rate _ rfl, writeByteOps_port rate _ rfl, writeByteOps_port rate _ rfl⟩

/-- From the port 0x02 the bytes make their four transfers, and the port ends at 0x01. -/
theorem initBytesOps_events :
    promisedEvents (initBytesOps rate) 0x02#8 =
      writeByteTrace rate 0x02#8 0x28#8 ++ (writeByteTrace rate 0x08#8 0x0C#8 ++ (writeByteTrace rate 0x0C#8 0x06#8
        ++ ([.w 0x06#8, .t (microseconds rate 1)] ++ writeByteTrace rate 0x06#8 0x01#8
        ++ [.t (milliseconds rate 2)]))) := by
  obtain ⟨hfirst, hsecond, hthird⟩ := initBytesOps_ports rate
  have hclear : promisedEvents (clearOps rate) 0x06#8 =
      [.w 0x06#8, .t (microseconds rate 1)] ++ writeByteTrace rate 0x06#8 0x01#8 ++ [.t (milliseconds rate 2)] :=
    clearOps_events rate rfl
  rw [initBytesOps, promisedEvents_append, promisedEvents_append, promisedEvents_append, hfirst, hsecond, hthird,
    writeByteOps_events rate _ rfl, writeByteOps_events rate _ rfl, writeByteOps_events rate _ rfl, hclear]

theorem initBytesOps_port : promisedPort (initBytesOps rate) 0x02#8 = 0x01#8 := by
  obtain ⟨hfirst, hsecond, hthird⟩ := initBytesOps_ports rate
  rw [initBytesOps, promisedPort_append, promisedPort_append, promisedPort_append, hfirst, hsecond, hthird]
  exact clearOps_port rate rfl

/-- From E and RS at 0 the four bytes are latched in the command register. -/
theorem initBytesOps_latches (he : lineOf .e p = false) (hrs : lineOf .rs p = false) :
    latches p (promisedEvents (initBytesOps rate) p) =
      [(false, 0x2#4), (false, 0x8#4), (false, 0x0#4), (false, 0xC#4), (false, 0x0#4), (false, 0x6#4),
       (false, 0x0#4), (false, 0x1#4)] := by
  have hbyte : ∀ (v : Byte) (q : Byte), lineOf .e q = false → lineOf .rs q = false →
      latches q (promisedEvents (writeByteOps rate v) q) = [(false, highNibble v), (false, lowNibble v)] := by
    intro v q heq hrsq
    rw [writeByteOps_latches rate v heq, hrsq]
  simp only [initBytesOps, latches_promisedEvents_append]
  rw [hbyte _ _ he hrs, hbyte _ _ (by simp) (by simp [lineOf_writeByteOps, he, hrs]),
    hbyte _ _ (by simp) (by simp [lineOf_writeByteOps, he, hrs]), clearOps_latches rate (by simp)]
  rfl

end Sys2Proof.Machine

namespace Sys2Proof.Proofs

open Sys2Proof.Machine Sys2Proof.Config

/-- Settles O21: INIT needs no Ready, so it passes its checks; its steps make the port 0x02 and then send four bytes. -/
theorem initPerformsItsSequence : Obligations.InitPerformsItsSequence := by
  intro s hm hf he ht
  have hport := initPort_of_low he ht
  have hexec := exec_performed (i := .init) rfl (by simp) hm hf (.inl rfl)
  rw [expand_init_eq] at hexec
  refine ⟨initBodyOps s.ticksPerUs, hexec, mark_notMem_initBodyOps _, ?events, ?port⟩
  case events =>
    rw [initBodyOps, promisedEvents_append, initResetOps_port _ he, initResetOps_events _ he, hport,
      initBytesOps_events]
    simp only [List.append_assoc]
  case port =>
    rw [initBodyOps, promisedPort_append, initResetOps_port _ he, hport, initBytesOps_port]

/-- Settles O22: the marks make no event; steps 1 to 4 latch the nibble 2 three times and leave RS at 0, and steps 5
to 8 latch four bytes. -/
theorem initLatchesTheSameNibbles : Obligations.InitLatchesTheSameNibbles := by
  intro rate p he
  have hbody : latches p (promisedEvents (initBodyOps rate) p) =
      [(false, 0x2#4), (false, 0x2#4), (false, 0x2#4)] ++
        [(false, 0x2#4), (false, 0x8#4), (false, 0x0#4), (false, 0xC#4), (false, 0x0#4), (false, 0x6#4),
         (false, 0x0#4), (false, 0x1#4)] := by
    rw [initBodyOps, latches_promisedEvents_append, initResetOps_latches rate he, initResetOps_port rate he,
      initBytesOps_latches rate (initPort_eLow he) (initPort_rsLow p)]
  rw [expand_init_eq, promisedEvents_between_marks]
  exact hbody

end Sys2Proof.Proofs
end

section
/-! ### Where the marks stand in SEQ, and what changes INIT_DONE (44_protocol_ops.md R160, R175) -/

namespace Sys2Proof.Machine

variable {s t : State} {b : Bool} {ops : List MicroOp}

/-- Where a mark waits in SEQ, SEQ is what is left of INIT. -/
theorem Inv.seq_suffix_of_mark_mem (h : Inv s) (hmem : MicroOp.mark b ∈ s.seq) :
    s.seq <:+ [.mark false] ++ initBodyOps s.ticksPerUs ++ [.mark true] := by
  obtain ⟨i, k, hseq⟩ := h.seqOrigin
  have hi : i = .init := by
    by_contra hi
    exact mark_notMem_expand hi _ b (List.mem_of_mem_drop (hseq ▸ hmem))
  rw [hseq, hi, ← expand_init_eq]
  exact List.drop_suffix _ _

/-- Where a mark waits in SEQ, MARK(1) is the last of SEQ. -/
theorem Inv.seq_ends_with_mark_true (h : Inv s) (hmem : MicroOp.mark b ∈ s.seq) :
    ∃ ops, s.seq = ops ++ [.mark true] := by
  rcases List.suffix_concat_iff.1 (h.seq_suffix_of_mark_mem hmem) with hnil | ⟨ops, hseq, -⟩
  · simp [hnil] at hmem
  · exact ⟨ops, hseq⟩

/-- MARK(1) comes to the head of SEQ only as its last micro-operation. -/
theorem Inv.seq_of_mark_true_head (h : Inv s) (hs : s.seq = .mark true :: ops) : s.seq = [.mark true] := by
  obtain ⟨before, hseq⟩ := h.seq_ends_with_mark_true (b := true) (by simp [hs])
  cases before with
  | nil => exact hseq
  | cons op before =>
    obtain ⟨-, hops⟩ := List.cons.inj (hs.symm.trans hseq)
    exact absurd (by simp [hops]) (h.mark_true_notMem_tail hs)

/-- MARK(0) is at the head of SEQ only where all of INIT is still to come. -/
theorem Inv.seq_of_mark_false_head (h : Inv s) (hs : s.seq = .mark false :: ops) :
    s.seq = expand s.ticksPerUs .init := by
  have hmem : MicroOp.mark false ∈ s.seq := by simp [hs]
  have hsuffix := h.seq_suffix_of_mark_mem hmem
  rw [List.append_assoc, List.singleton_append, List.suffix_cons_iff] at hsuffix
  rcases hsuffix with hall | hrest
  · rw [hall, expand_init_eq, List.append_assoc, List.singleton_append]
  · have hlater := hrest.subset hmem
    simp [mark_notMem_initBodyOps] at hlater

/-- MARK(1) occurs in INIT once, at its end. -/
theorem mark_true_in_expand_init (rate : Config.TickRate) :
    (expand rate .init).getLast? = some (.mark true) ∧ (expand rate .init).count (.mark true) = 1 := by
  have hlast : (expand rate .init).getLast? = some (.mark true) := by rw [expand_init_eq, List.getLast?_concat]
  have hpos := List.count_pos_iff.2 (List.mem_of_getLast? hlast)
  have hle := count_mark_true_expand rate .init
  exact ⟨hlast, by omega⟩

/-- The meaning of an instruction keeps INIT_DONE: INIT itself only fills SEQ. -/
theorem exec_keeps_initDone {i : Instr} (h : exec i s = .next t) : t.initDone = s.initDone := by
  obtain ⟨t', ht', hkind⟩ := exec_cases i s
  obtain rfl : t' = t := Host.Outcome.next.inj (ht'.symm.trans h)
  rcases hkind with rfl | ⟨m, -, rfl⟩ | ⟨m, -, -, -, -, rfl⟩ | ⟨-, -, rfl⟩ | ⟨m, -, -, -, rfl⟩ | ⟨b, -, rfl⟩ <;> rfl

/-- Accepting a word, legal or not, keeps INIT_DONE. -/
theorem acceptWord_keeps_initDone {w : Word} (h : acceptWord w s = .next t) : t.initDone = s.initDone := by
  unfold acceptWord at h
  split at h
  · exact exec_keeps_initDone h
  · cases h
    rfl

/-- Of the micro-operations only a mark writes INIT_DONE. -/
theorem microStep_initDone {op : MicroOp} (h : microStep op s = .next t) :
    t.initDone = s.initDone ∨ op = .mark t.initDone := by
  rcases microStep_next h with ⟨l, -, -, -, rfl⟩ | ⟨l, -, -, rfl⟩ | ⟨n, -, -, rfl⟩ | ⟨d, -, -, rfl⟩ | ⟨b, rfl, rfl⟩
  · exact .inl rfl
  · exact .inl rfl
  · exact .inl rfl
  · rcases waitStep_cases d s with ⟨-, hw⟩ | ⟨-, -, hw⟩ | ⟨-, -, hw⟩ <;> exact .inl (by simp [hw])
  · exact .inr rfl

/-- A step writes INIT_DONE only as a reset edge or as the mark at the head of SEQ. -/
theorem step_initDone (h : step s = .next t) :
    t.initDone = s.initDone ∨ nextMove s = .rst ∧ t.initDone = false ∨ ∃ ops, s.seq = .mark t.initDone :: ops := by
  rcases step_next h with
    ⟨-, hcore⟩ | ⟨n, -, rfl⟩ | ⟨-, -, rfl⟩ | ⟨w, -, rfl⟩ | ⟨hrst, rfl⟩ | ⟨ok, -, rfl⟩
  · rcases coreMove_cases (takeMove s) with
      ⟨-, hc⟩ | ⟨-, op, ops, hs, hc⟩ | ⟨-, -, w, ws, -, hc⟩ | ⟨-, -, -, hc⟩ <;> rw [hc] at hcore
    · cases hcore
      exact .inl rfl
    · rcases microStep_initDone hcore with hkept | hmark
      · exact .inl hkept
      · exact .inr (.inr ⟨ops, hmark ▸ hs⟩)
    · exact .inl (acceptWord_keeps_initDone (s := { takeMove s with offered := ws }) hcore)
    · cases hcore
      exact .inl rfl
  · exact .inl rfl
  · exact .inl rfl
  · exact .inl rfl
  · exact .inr (.inl ⟨hrst, rfl⟩)
  · exact .inl rfl

/-- Every command needs Ready but INIT and the two delays (R171). -/
theorem needsReady_of_command {i : Instr} (hp : i.isPayload = false) (hinit : i ≠ .init)
    (hus : ∀ d, i ≠ .delayus d) (hms : ∀ d, i ≠ .delayms d) : needsReady i = true := by
  cases i with
  | init => exact absurd rfl hinit
  | delayus d => exact absurd rfl (hus d)
  | delayms d => exact absurd rfl (hms d)
  | payloadByte b => cases hp
  | payloadEnd => cases hp
  | _ => rfl

/-- In MODE = CMD only a command that passes its checks changes SEQ. -/
theorem ready_of_exec_changes_seq {i : Instr} (hm : s.mode = .cmd) (hneeds : i.isPayload = false → needsReady i = true)
    (h : exec i s = .next t) (hseq : t.seq ≠ s.seq) : s.initDone = true := by
  have hp : i.isPayload = false := by
    obtain ⟨t', ht', hkind⟩ := exec_cases i s
    obtain rfl : t' = t := Host.Outcome.next.inj (ht'.symm.trans h)
    rcases hkind with
      rfl | ⟨m, -, rfl⟩ | ⟨m, -, -, -, -, rfl⟩ | ⟨-, -, rfl⟩ | ⟨m, -, -, hp, -⟩ | ⟨b, hstr, -⟩
    · exact absurd rfl hseq
    · exact absurd rfl hseq
    · exact absurd rfl hseq
    · exact absurd rfl hseq
    · exact hp
    · simp [hm] at hstr
  rw [exec_command i s hp hm] at h
  cases h
  rcases checkCommand_cases i (expand s.ticksPerUs i) (if i = .putstr then .discard else .cmd)
    (if i = .putstr then .str else .cmd) s with ⟨-, hc⟩ | ⟨-, -, -, hc⟩ | ⟨-, hready, -⟩
  · simp [hc] at hseq
  · simp [hc] at hseq
  · simpa [hneeds hp] using hready

end Sys2Proof.Machine

namespace Sys2Proof.Proofs

open Sys2Proof.Machine

/-- Settles O51: a mark at the head of SEQ writes INIT_DONE, and the invariant says that MARK(1) is then the last of
INIT and MARK(0) its first; a command that needs Ready passes its checks only there. -/
theorem readyComesOnlyFromACompleteInit : Obligations.ReadyComesOnlyFromACompleteInit := by
  refine ⟨fun s t hinv hstep => ⟨fun hbefore hafter => ?toReady, fun hbefore hafter => ?toUninitialized⟩,
    fun s t i hm hinit hus hms hexec hseq => ready_of_exec_changes_seq hm
      (fun hp => needsReady_of_command hp hinit hus hms) hexec hseq⟩
  case toReady =>
    rcases step_initDone hstep with hkept | ⟨-, hreset⟩ | ⟨ops, hs⟩
    · simp [hbefore, hafter] at hkept
    · simp [hafter] at hreset
    · rw [hafter] at hs
      exact ⟨hinv.seq_of_mark_true_head hs, mark_true_in_expand_init _⟩
  case toUninitialized =>
    rcases step_initDone hstep with hkept | ⟨hrst, -⟩ | ⟨ops, hs⟩
    · simp [hbefore, hafter] at hkept
    · exact .inl hrst
    · rw [hafter] at hs
      exact .inr (hinv.seq_of_mark_false_head hs)

end Sys2Proof.Proofs
end

section
/-! ### SEQ drains (44_protocol_ops.md R177, 60_exceptions.md R230) -/

namespace Sys2Proof.Machine

variable {s t : State} {op : MicroOp} {ops : List MicroOp}

/-! INIT_DONE once SEQ is done. -/

/-- Micro-operations without a mark leave INIT_DONE as it is. -/
theorem promisedDone_of_no_mark (h : ∀ b, MicroOp.mark b ∉ ops) (d : Bool) : promisedDone ops d = d := by
  induction ops with
  | nil => rfl
  | cons op ops ih =>
    have hops := ih fun b hmem => h b (.tail _ hmem)
    cases op with
    | mark b => exact absurd List.mem_cons_self (h b)
    | _ => exact hops

/-- The last mark decides INIT_DONE. -/
theorem promisedDone_append_mark (ops : List MicroOp) (b d : Bool) : promisedDone (ops ++ [.mark b]) d = b := by
  induction ops generalizing d with
  | nil => rfl
  | cons op ops ih => cases op <;> exact ih _

/-! One move towards the end of SEQ. -/

/-- Where the script is empty the timer expires while the core polls it, and else the core moves. -/
theorem nextMove_of_no_script (h : s.script = []) : nextMove s = if awaitsTimer s then .expire else .core := by
  simp only [nextMove, h]

/-- What SEQ holds at its head the core may perform: it has not failed, and no word sets RW or TEST. -/
theorem Inv.microStep_performs (h : Inv s) (hs : s.seq = op :: ops) : ∃ t, microStep op s = .next t := by
  have hf : ¬ s.failed = true := by simp [h.not_failed_of_seq hs]
  cases op with
  | set l =>
    have hl : l.settable = true := by
      obtain ⟨i, k, hseq⟩ := h.seqOrigin
      have hmem : MicroOp.set l ∈ expand s.ticksPerUs i := List.mem_of_mem_drop (by rw [← hseq, hs]; simp)
      rcases shared_or_initOnly_of_mem_expand hmem with hshared | ⟨-, hinit⟩
      · cases l with
        | rs => rfl
        | e => rfl
        | rw => cases hshared
        | test => cases hshared
      · cases hinit
    exact ⟨_, (if_neg hf).trans (if_pos hl)⟩
  | clr l => exact ⟨_, if_neg hf⟩
  | nib n => exact ⟨_, if_neg hf⟩
  | wait d => exact ⟨_, if_neg hf⟩
  | mark b => exact ⟨_, rfl⟩

/-- Every micro-operation but a WAIT is done in one move, and does not touch the delay machine. -/
theorem microStep_of_not_wait (hwait : ∀ d, op ≠ .wait d) (h : microStep op s = .next t) :
    t.seq = s.seq.tail ∧ t.dlState = s.dlState := by
  rcases microStep_next h with
    ⟨l, -, -, -, rfl⟩ | ⟨l, -, -, rfl⟩ | ⟨n, -, -, rfl⟩ | ⟨d, hd, -, -⟩ | ⟨b, -, rfl⟩
  · exact ⟨rfl, rfl⟩
  · exact ⟨rfl, rfl⟩
  · exact ⟨rfl, rfl⟩
  · exact absurd hd (hwait d)
  · exact ⟨rfl, rfl⟩

/-- The moves that empty SEQ at most: three for a WAIT, which are to arm, to expire and to finish, less those that the
WAIT at the head has had. -/
def movesToDrain (s : State) : Nat :=
  3 * s.seq.length -
    match s.dlState with
    | .idle => 0
    | .armed => if s.timer.expired then 2 else 1

theorem movesToDrain_le (s : State) : movesToDrain s ≤ 3 * s.seq.length := Nat.sub_le _ _

theorem movesToDrain_idle (hd : s.dlState = .idle) : movesToDrain s = 3 * s.seq.length := by
  simp [movesToDrain, hd]

theorem movesToDrain_armed (hd : s.dlState = .armed) :
    movesToDrain s = 3 * s.seq.length - if s.timer.expired then 2 else 1 := by
  simp [movesToDrain, hd]

/-- A WAIT at the head of SEQ is armed, expires, or is over: each brings SEQ nearer its end. -/
theorem Inv.wait_progresses {d : Ticks} (h : Inv s) (hr : s.inReset = false) (hscript : s.script = [])
    (hs : s.seq = .wait d :: ops) : ∃ t, step s = .next t ∧ movesToDrain t < movesToDrain s := by
  have hmove := nextMove_of_no_script hscript
  have hf := h.not_failed_of_seq hs
  cases hd : s.dlState with
  | idle =>
    have hcore : nextMove s = .core := by simp [hmove, awaitsTimer, hs, hd]
    refine ⟨_, step_wait hcore hr hf hs, ?_⟩
    rw [waitStep_idle (s := takeMove s) hd, movesToDrain_idle hd, movesToDrain_armed rfl]
    simp [hs, timerStart]
  | armed =>
    cases he : s.timer.expired with
    | false =>
      obtain ⟨-, -, -, -, hrun⟩ := h.armedWaits hd
      have hexpire : nextMove s = .expire := by simp [hmove, awaitsTimer, hs, hd, hrun, he]
      have hless := movesToDrain_armed (s := { takeMove s with timer := timerExpire s.timer }) hd
      refine ⟨{ takeMove s with timer := timerExpire s.timer }, by simp [step, hexpire, perform, hrun], ?_⟩
      rw [hless, movesToDrain_armed hd]
      simp [hs, he, timerExpire]
      omega
    | true =>
      have hcore : nextMove s = .core := by simp [hmove, awaitsTimer, hs, hd, he]
      refine ⟨_, step_wait hcore hr hf hs, ?_⟩
      rw [waitStep_expired (s := takeMove s) hd he, movesToDrain_armed hd, movesToDrain_idle rfl]
      simp [hs, he]
      omega

/-- Out of reset and with no move scripted, each step brings SEQ nearer its end. -/
theorem Inv.step_progresses (h : Inv s) (hr : s.inReset = false) (hscript : s.script = []) (hs : s.seq = op :: ops) :
    ∃ t, step s = .next t ∧ movesToDrain t < movesToDrain s := by
  by_cases hwait : ∃ d, op = .wait d
  · obtain ⟨d, rfl⟩ := hwait
    exact h.wait_progresses hr hscript hs
  · have hne : ∀ d, op ≠ .wait d := fun d hd => hwait ⟨d, hd⟩
    have hidle : s.dlState = .idle := by
      have hnot := h.not_armed_of_seq (by simp [hs, hne])
      cases hd : s.dlState with
      | idle => rfl
      | armed => exact absurd hd hnot
    have hcore : nextMove s = .core := by
      have hpoll : awaitsTimer s = false := by cases op <;> simp [awaitsTimer, hs, hidle]
      simp [nextMove_of_no_script hscript, hpoll]
    obtain ⟨t, ht⟩ := (takeMove_keeps_inv h).microStep_performs (op := op) hs
    obtain ⟨hseq, hd⟩ := microStep_of_not_wait hne ht
    refine ⟨t, (step_microOp hcore hr hs).trans ht, ?_⟩
    rw [movesToDrain_idle hidle, movesToDrain_idle (hd.trans hidle), hseq]
    simp [hs]

/-! All the moves. -/

/-- A state on the way to the end of SEQ: out of reset and with no move scripted it will drain to d, with the words ws
still offered. -/
structure DrainsTo (d : State) (ws : List Word) (s : State) : Prop where
  inv : Inv s
  outOfReset : s.inReset = false
  noScript : s.script = []
  promised : drained s = d
  words : s.offered = ws

variable {d : State} {ws : List Word}

/-- Every step on the way is one of the core or the timer's expiry, and stays on it. -/
theorem DrainsTo.step_keeps (h : DrainsTo d ws s) (hs : s.seq ≠ []) (hstep : step s = .next t) : DrainsTo d ws t := by
  have hinv := Proofs.everyStepKeepsTheInvariant s t h.inv hstep
  have hother : ∀ m : Move, m ≠ .core → m ≠ .expire → nextMove s ≠ m := fun m hcore hexpire =>
    nextMove_ne_of_notMem hcore hexpire (by simp [h.noScript])
  rcases step_next hstep with
    ⟨hcore, -⟩ | ⟨n, hm, -⟩ | ⟨-, -, rfl⟩ | ⟨w, hm, -⟩ | ⟨hm, -⟩ | ⟨ok, hm, -⟩
  · obtain ⟨op, ops, hseq⟩ := List.exists_cons_of_ne_nil hs
    rw [step_microOp hcore h.outOfReset hseq] at hstep
    obtain ⟨hoffered, hscript, hreset⟩ := microStep_keeps_stream hstep
    exact ⟨hinv, hreset.trans h.outOfReset, by simp [hscript, h.noScript],
      (microStep_keeps_drained (s := takeMove s) hseq hstep).trans h.promised, hoffered.trans h.words⟩
  · exact absurd hm (hother _ (by simp) (by simp))
  · exact ⟨hinv, h.outOfReset, by simp [h.noScript], h.promised, h.words⟩
  · exact absurd hm (hother _ (by simp) (by simp))
  · exact absurd hm (hother _ (by simp) (by simp))
  · exact absurd hm (hother _ (by simp) (by simp))

/-- SEQ is empty after at most the moves that each bring it nearer its end. -/
theorem DrainsTo.run_drains (h : DrainsTo d ws s) :
    ∃ (k : Nat) (t : State), k ≤ movesToDrain s ∧ Sys2Proof.core.run k s = .next t ∧ DrainsTo d ws t ∧ t.seq = [] := by
  induction hn : movesToDrain s using Nat.strong_induction_on generalizing s with
  | h n ih =>
    cases hs : s.seq with
    | nil => exact ⟨0, s, Nat.zero_le _, rfl, h, hs⟩
    | cons op ops =>
      obtain ⟨s', hstep, hless⟩ := h.inv.step_progresses h.outOfReset h.noScript hs
      have hkept := h.step_keeps (by simp [hs]) hstep
      obtain ⟨k, t, hk, hrun, hend⟩ := ih _ (hn ▸ hless) hkept rfl
      exact ⟨k + 1, t, by omega, (run_step hstep).trans hrun, hend⟩

end Sys2Proof.Machine

namespace Sys2Proof.Proofs

open Sys2Proof.Machine

/-- Settles O40: each move on the way keeps what SEQ promises and brings SEQ nearer its end; at the end the promise is
the trace, the port and INIT_DONE themselves. -/
theorem sequencerDrainsToThePromisedTrace : Obligations.SequencerDrainsToThePromisedTrace := by
  intro s hinv hr hscript
  have hstart : DrainsTo (drained s) s.offered s := ⟨hinv, hr, hscript, rfl, rfl⟩
  obtain ⟨k, t, hk, hrun, hend, hseq⟩ := hstart.run_drains
  have hdrained : withAgentsOf State.reset t = drained s := (drained_of_seq_nil hseq).symm.trans hend.promised
  have htrace : t.trace = promisedTrace s := congrArg State.trace hdrained
  have hport : t.port = promisedPort s.seq s.port := congrArg State.port hdrained
  have hdone : t.initDone = promisedDone s.seq s.initDone := congrArg State.initDone hdrained
  refine ⟨k, t, hk.trans (movesToDrain_le s), hrun, hseq, (cmdReady_eq_true t).2 ⟨hend.outOfReset, hseq⟩, htrace, hport,
    hend.words, fun hmark => ?ready, fun hnone => ?unmarked⟩
  case ready =>
    obtain ⟨ops, hops⟩ := hinv.seq_ends_with_mark_true hmark
    rw [hdone, hops, promisedDone_append_mark]
  case unmarked => rw [hdone, promisedDone_of_no_mark hnone]

end Sys2Proof.Proofs
end

section
/-! ### Discarded and rejected words (60_exceptions.md R201 to R203, R207; 44_protocol_ops.md R173) -/

namespace Sys2Proof.Machine

variable {i : Instr} {s t : State}

/-- A command that needs Ready, before INIT on a core that has not failed, is rejected. -/
theorem exec_rejected (hi : i.isPayload = false) (hneeds : needsReady i = true) (hm : s.mode = .cmd)
    (hf : s.failed = false) (hdone : s.initDone = false) :
    exec i s = .next (raisePrecondition (encode i) { s with mode := if i = .putstr then .discard else .cmd }) := by
  rw [exec_command i s hi hm]
  simp only [checkCommand, hf, hneeds, hdone, Bool.false_eq_true, if_false, Bool.not_false, Bool.and_true, if_true]

/-- A command on a failed core is discarded. -/
theorem exec_discarded (hi : i.isPayload = false) (hm : s.mode = .cmd) (hf : s.failed = true) :
    exec i s = .next { s with mode := if i = .putstr then .discard else .cmd } :=
  (exec_command i s hi hm).trans (congrArg _ (if_pos hf))

/-- An instruction that does not need Ready never records a precondition violation: where the core has not failed it
passes its checks. -/
theorem exec_keeps_errPrecond (hneeds : needsReady i = false) (h : exec i s = .next t) :
    t.errPrecond = s.errPrecond := by
  obtain ⟨t', ht', hkind⟩ := exec_cases i s
  obtain rfl : t' = t := Host.Outcome.next.inj (ht'.symm.trans h)
  rcases hkind with rfl | ⟨m, -, rfl⟩ | ⟨m, -, hf, hm, hp, -⟩ | ⟨-, -, rfl⟩ | ⟨m, -, -, -, rfl⟩ | ⟨b, -, rfl⟩
  · rfl
  · rfl
  · have hstr : i ≠ .putstr := by rintro rfl; cases hneeds
    have hperformed := exec_performed hp hstr hm hf (.inl hneeds)
    rw [Host.Outcome.next.inj (ht'.symm.trans hperformed)]
  · rfl
  · rfl
  · rfl

end Sys2Proof.Machine

namespace Sys2Proof.Proofs

open Sys2Proof.Machine

/-- Settles O15: the nine commands need Ready and so fail the check of INIT_DONE; the other three do not need it. -/
theorem commandBeforeInitIsRejected : Obligations.CommandBeforeInitIsRejected := by
  refine ⟨fun s w i hi hm hd hf hdone => ?rejected, fun s t i hi hexec => ?kept⟩
  case rejected =>
    have hneeds : needsReady i = true := by
      rcases hi with rfl | ⟨l, c, rfl⟩ | ⟨b, rfl⟩ | rfl | ⟨b, rfl⟩ | ⟨b, rfl⟩ | rfl | rfl | rfl <;> rfl
    obtain ⟨rfl, hp⟩ := encode_of_decodeCommand hd
    rw [acceptWord_instr (by rw [hm, hd]), exec_rejected hp hneeds hm hf hdone]
    rfl
  case kept =>
    have hneeds : needsReady i = false := by rcases hi with rfl | ⟨d, rfl⟩ | ⟨d, rfl⟩ <;> rfl
    exact exec_keeps_errPrecond hneeds hexec

/-- Settles O16: FAILED is the first check of every command. -/
theorem failedCoreDiscardsCommands : Obligations.FailedCoreDiscardsCommands :=
  fun _ _ hi hm hf => exec_discarded hi hm hf

/-- Settles O18: each kind of next state an instruction can answer is s with some of the six fields written. -/
theorem acceptanceFrame : Obligations.AcceptanceFrame := by
  intro i s t h
  obtain ⟨t', ht', hkind⟩ := exec_cases i s
  obtain rfl : t' = t := Host.Outcome.next.inj (ht'.symm.trans h)
  rcases hkind with rfl | ⟨m, -, rfl⟩ | ⟨m, -, -, -, -, rfl⟩ | ⟨-, -, rfl⟩ | ⟨m, -, -, -, rfl⟩ | ⟨b, -, rfl⟩ <;> rfl

/-- Settles O13: the core's move accepts the word, which is recording it; a payload word always decodes. -/
theorem illegalWordIsOnlyRecorded : Obligations.IllegalWordIsOnlyRecorded := by
  constructor
  · intro s w ws r hmove hr hs ho hm hd
    rw [step_core hmove, coreMove_accept (s := takeMove s) hr hs ho]
    exact acceptWord_illegal (s := { takeMove s with offered := ws }) (hm.symm ▸ hd)
  · intro m w r hm hd
    rw [decode_payload hm] at hd
    cases hd

/-- Settles O17: TERM alone decides what a discarded word does. -/
theorem discardedPayloadHasNoEffect : Obligations.DiscardedPayloadHasNoEffect := by
  intro w s hm
  have hstring : s.mode ≠ .cmd := by simp [hm]
  refine ⟨fun hbyte => ?_, acceptWord_end hstring⟩
  rw [acceptWord_byte hstring hbyte]
  simp only [acceptByte, hm]

end Sys2Proof.Proofs
end

section
/-! ### What is recorded of the errors (60_exceptions.md R204, R209; 10_state.md R29, R30, R33) -/

namespace Sys2Proof.Machine

/-- The record of the errors that words cause: both sticky flags, LAST_ERR and ERR_WORD. -/
structure ErrorRecord where
  precond : Bool
  illegal : Bool
  last : ErrorKind
  word : Word

/-- The record that STATUS and ERR_WORD show. -/
def errorRecord (s : State) : ErrorRecord :=
  { precond := s.errPrecond, illegal := s.errIllegal, last := s.lastErr, word := s.errWord }

/-- The record after `raise IllegalCommand(w)` (60_exceptions.md R204). -/
def ErrorRecord.addIllegal (w : Word) (r : ErrorRecord) : ErrorRecord :=
  { r with illegal := true, last := .illegalCommand, word := w }

/-- The record after `raise PreconditionViolation(w)` (R204). -/
def ErrorRecord.addPrecondition (w : Word) (r : ErrorRecord) : ErrorRecord :=
  { r with precond := true, last := .preconditionViolation, word := w }

variable {s t : State} {w : Word}

/-- An accepted word leaves the record as it was, or is itself recorded there with its kind. -/
theorem acceptWord_errorRecord (h : acceptWord w s = .next t) :
    errorRecord t = errorRecord s ∨ errorRecord t = (errorRecord s).addIllegal w ∨
      errorRecord t = (errorRecord s).addPrecondition w := by
  cases hd : decode s.mode w with
  | illegal r =>
    rw [acceptWord_illegal hd] at h
    cases h
    exact .inr (.inl rfl)
  | instr i =>
    have hcommand : s.mode = .cmd → encode i = w ∧ i.isPayload = false := fun hm =>
      encode_of_decodeCommand (by rw [hm] at hd; exact hd)
    rw [acceptWord_instr hd] at h
    obtain ⟨t', ht', hkind⟩ := exec_cases i s
    obtain rfl : t' = t := Host.Outcome.next.inj (ht'.symm.trans h)
    rcases hkind with rfl | ⟨m, -, rfl⟩ | ⟨m, -, -, hm, -, rfl⟩ | ⟨hm, hp, -⟩ | ⟨m, -, -, -, rfl⟩ | ⟨b, -, rfl⟩
    · exact .inl rfl
    · exact .inl rfl
    · obtain ⟨rfl, -⟩ := hcommand hm
      exact .inr (.inr rfl)
    · simp [hcommand hm] at hp
    · exact .inl rfl
    · exact .inl rfl

/-- Performing the head of SEQ raises no error (60_exceptions.md R200). -/
theorem microStep_errorRecord {op : MicroOp} (h : microStep op s = .next t) : errorRecord t = errorRecord s := by
  rcases microStep_next h with ⟨l, -, -, -, rfl⟩ | ⟨l, -, -, rfl⟩ | ⟨n, -, -, rfl⟩ | ⟨d, -, -, rfl⟩ | ⟨b, -, rfl⟩
  · rfl
  · rfl
  · rfl
  · rcases waitStep_cases d s with ⟨-, hw⟩ | ⟨-, -, hw⟩ | ⟨-, -, hw⟩ <;> rw [hw] <;> rfl
  · rfl

/-- Out of reset, a step that is no reset edge leaves the record as it was, or takes a word and records it. -/
theorem step_errorRecord (hr : s.inReset = false) (hm : nextMove s ≠ .rst) (h : step s = .next t) :
    errorRecord t = errorRecord s ∨ ∃ w, s.offered = w :: t.offered ∧
      (errorRecord t = (errorRecord s).addIllegal w ∨ errorRecord t = (errorRecord s).addPrecondition w) := by
  rcases step_next h with
    ⟨-, hcore⟩ | ⟨n, -, rfl⟩ | ⟨-, -, rfl⟩ | ⟨w, -, rfl⟩ | ⟨hrst, -⟩ | ⟨ok, -, rfl⟩
  · rcases coreMove_cases (takeMove s) with
      ⟨hr', -⟩ | ⟨-, op, ops, -, hc⟩ | ⟨-, -, w, ws, ho, hc⟩ | ⟨-, -, -, hc⟩
    · simp [hr] at hr'
    · exact .inl (microStep_errorRecord (s := takeMove s) (hc.symm.trans hcore))
    · have haccept := hc.symm.trans hcore
      have hoffered : t.offered = ws := congrArg State.offered (acceptWord_keeps_agents haccept)
      have hrecord := acceptWord_errorRecord (s := { takeMove s with offered := ws }) haccept
      exact hrecord.imp_right fun hrecorded => ⟨w, by rw [hoffered]; exact ho, hrecorded⟩
    · obtain rfl := Host.Outcome.next.inj (hc.symm.trans hcore)
      exact .inl rfl
  · exact .inl rfl
  · exact .inl rfl
  · exact .inl rfl
  · exact absurd hrst hm
  · exact .inl rfl

end Sys2Proof.Machine

namespace Sys2Proof.Proofs

open Sys2Proof.Machine

/-- Settles O52: FAILED is written at the sampling edge alone, and the rest of the record changes only by a rejected
word, which clears nothing. -/
theorem onlyResetClearsErrors : Obligations.OnlyResetClearsErrors := by
  intro s t hr hm hstep
  obtain ⟨-, keepsFailed⟩ := periphOkIsSampledOnce
  have hfailed := keepsFailed s t hr hm hstep
  rcases step_errorRecord hr hm hstep with hkept | ⟨w, hoffered, hillegal | hprecond⟩
  · obtain ⟨hpre, hill, hlast, hword⟩ := ErrorRecord.mk.inj hkept
    simp [hpre, hill, hlast, hword, hfailed]
  · obtain ⟨hpre, hill, hlast, hword⟩ := ErrorRecord.mk.inj hillegal
    simp [hpre, hill, hlast, hword, hfailed, hoffered, errorRecord]
  · obtain ⟨hpre, hill, hlast, hword⟩ := ErrorRecord.mk.inj hprecond
    simp [hpre, hill, hlast, hword, hfailed, hoffered, errorRecord]

end Sys2Proof.Proofs
end

section
/-! ### A failed core, an idle core, and that no lawful move stops the machine (60_exceptions.md R200, R203, R229) -/

namespace Sys2Proof.Machine

variable {s t : State}

/-- In reset FAILED is 0, so a failed core is out of reset. -/
theorem Inv.outOfReset_of_failed (h : Inv s) (hf : s.failed = true) : s.inReset = false := by
  refine eq_false_of_ne_true fun hr => ?_
  obtain ⟨-, -, -, -, hnot, -⟩ := h.resetQuiet hr
  simp [hf] at hnot

/-- With SEQ empty the core's move does not touch the timer or the delay machine. -/
theorem coreMove_keeps_timer_of_seq_nil (hs : s.seq = []) (h : coreMove s = .next t) :
    t.timer = s.timer ∧ t.dlState = s.dlState := by
  rcases coreMove_cases s with
    ⟨-, hc⟩ | ⟨-, op, ops, hseq, -⟩ | ⟨-, -, w, ws, -, hc⟩ | ⟨-, -, -, hc⟩
  · obtain rfl := Host.Outcome.next.inj (hc.symm.trans h)
    exact ⟨rfl, rfl⟩
  · simp [hs] at hseq
  · have hagents := acceptWord_keeps_agents (hc.symm.trans h)
    exact ⟨(congrArg State.timer hagents :), (congrArg State.dlState hagents :)⟩
  · obtain rfl := Host.Outcome.next.inj (hc.symm.trans h)
    exact ⟨rfl, rfl⟩

/-- The core's move always answers a next state: every word can be accepted, and every micro-operation performed. -/
theorem Inv.coreMove_answers (h : Inv s) : ∃ t, coreMove s = .next t := by
  rcases coreMove_cases s with
    ⟨-, hc⟩ | ⟨-, op, ops, hs, hc⟩ | ⟨-, -, w, ws, -, hc⟩ | ⟨-, -, -, hc⟩ <;> rw [hc]
  · exact ⟨_, rfl⟩
  · exact h.microStep_performs hs
  · exact ⟨_, Proofs.acceptanceFollowsTheProcedure w { s with offered := ws }⟩
  · exact ⟨_, rfl⟩

end Sys2Proof.Machine

namespace Sys2Proof.Proofs

open Sys2Proof.Machine

/-- Settles O53: both states are failed ones that meet the invariant, which fixes the port, the trace, SEQ and
INIT_DONE there. -/
theorem failedCoreIsSilent : Obligations.FailedCoreIsSilent := by
  intro s t hinv hf hm hstep
  obtain ⟨-, keepsFailed⟩ := periphOkIsSampledOnce
  have hft : t.failed = true := (keepsFailed s t (hinv.outOfReset_of_failed hf) hm hstep).trans hf
  have hinvt : Inv t := everyStepKeepsTheInvariant s t hinv hstep
  obtain ⟨hport, htrace, hseq, -⟩ := hinv.failedQuiet hf
  obtain ⟨hportt, htracet, hseqt, -⟩ := hinvt.failedQuiet hft
  obtain ⟨hdonet, -, -⟩ := hinvt.failedRecords hft
  refine ⟨hportt.trans hport.symm, htracet.trans htrace.symm, hseqt, hdonet, hft, fun hcore => ?_⟩
  rw [step_core hcore] at hstep
  exact coreMove_keeps_timer_of_seq_nil (s := takeMove s) hseq hstep

/-- Settles O50, move by move: the core's always answers, and of the others the lawful ones do. -/
theorem lawfulMovesNeverStopTheMachine : Obligations.LawfulMovesNeverStopTheMachine := by
  intro s hinv hlawful
  unfold lawfulMove at hlawful
  unfold step
  cases hm : nextMove s with
  | core => exact (takeMove_keeps_inv hinv).coreMove_answers
  | expire => exact ⟨_, if_pos (by simpa [hm] using hlawful)⟩
  | foreignPort v => simp [hm] at hlawful
  | foreignTimer => simp [hm] at hlawful
  | ticks n => exact ⟨_, rfl⟩
  | offer w => exact ⟨_, rfl⟩
  | rst => exact ⟨_, rfl⟩
  | periph ok => exact ⟨_, rfl⟩

/-- Settles O42: with no WAIT in SEQ the move is the core's, and it has nothing to do. -/
theorem idleCoreHoldsItsState : Obligations.IdleCoreHoldsItsState := by
  intro s hscript hr hs ho
  have hpoll : awaitsTimer s = false := by simp [awaitsTimer, hs]
  have hcore : nextMove s = .core := by simp [nextMove_of_no_script hscript, hpoll]
  have htake : takeMove s = s := by rw [takeMove, hscript, List.tail_nil, ← hscript]
  refine ⟨?_, (cmdReady_eq_true s).2 ⟨hr, hs⟩⟩
  rw [step_core hcore, htake, coreMove_idle hr hs ho]

end Sys2Proof.Proofs
end

section
/-! ### A countdown that does not expire (60_exceptions.md R230) -/

namespace Sys2Proof.Machine

/-- The moves of R230: the core polls, ticks pass, words are offered, `periph_ok` changes; no expiry, no reset. -/
def Move.raisesNoFlag (m : Move) : Prop :=
  m = .core ∨ (∃ n, m = .ticks n) ∨ (∃ w, m = .offer w) ∨ (∃ ok, m = .periph ok)

/-- The core polls a started countdown exactly with a WAIT at the head of SEQ, DL_ARMED and the flag 0. -/
theorem awaitsTimer_iff (s : State) :
    awaitsTimer s = true ↔
      (∃ d ops, s.seq = .wait d :: ops) ∧ s.dlState = .armed ∧ s.timer.run = true ∧ s.timer.expired = false := by
  unfold awaitsTimer
  split
  next d ops hs => simp [hs, and_assoc]
  next hs => simpa using fun d ops hseq => absurd hseq (hs d ops)

/-- Since it was in the state s, the core has polled and done nothing else: it is held in t. -/
structure HeldSince (s t : State) : Prop where
  polls : awaitsTimer t = true
  outOfReset : t.inReset = false
  notFailed : t.failed = false
  seq : t.seq = s.seq
  port : t.port = s.port
  trace : t.trace = s.trace
  offered : ∃ new, t.offered = s.offered ++ new

variable {s t : State} {m : Move} {ms : List Move}

/-- A held core shows BUSY and takes no word: the WAIT is still at the head of SEQ. -/
theorem HeldSince.busy_not_ready (h : HeldSince s t) :
    t.dlState = .armed ∧ busy t = true ∧ cmdReady t = false := by
  obtain ⟨⟨d, ops, hseq⟩, harmed, -, -⟩ := (awaitsTimer_iff t).1 h.polls
  have hbusy : busy t = true := by simp [busy_eq, hseq]
  exact ⟨harmed, hbusy, by simp [cmdReady, hbusy]⟩

/-- Taking a move changes nothing that holds the core. -/
theorem HeldSince.after_takeMove (h : HeldSince s t) : HeldSince s (takeMove t) := { h with }

/-- A poll of an unexpired countdown changes nothing. -/
theorem HeldSince.coreMove_eq (h : HeldSince s t) : coreMove t = .next t := by
  obtain ⟨⟨d, ops, hseq⟩, harmed, -, hflag⟩ := (awaitsTimer_iff t).1 h.polls
  have hf : ¬ t.failed = true := by simp [h.notFailed]
  rw [coreMove_busy h.outOfReset hseq, microStep, if_neg hf, waitStep_unexpired harmed hflag]

/-- Ticks without an expiry hold the core. -/
theorem HeldSince.after_ticks (h : HeldSince s t) (n : Nat) : HeldSince s { t with timer := timerTicks n t.timer } :=
  { h with
    polls := by
      obtain ⟨hseq, harmed, hrun, hflag⟩ := (awaitsTimer_iff t).1 h.polls
      exact (awaitsTimer_iff _).2 ⟨hseq, harmed, by simpa using hrun, by simpa using hflag⟩ }

/-- An offered word waits behind those offered before it. -/
theorem HeldSince.after_offer (h : HeldSince s t) (w : Word) : HeldSince s { t with offered := t.offered ++ [w] } :=
  { h with
    offered := by
      obtain ⟨new, hnew⟩ := h.offered
      exact ⟨new ++ [w], by rw [hnew, List.append_assoc]⟩ }

/-- A move that raises no flag holds the core. -/
theorem HeldSince.perform_holds (h : HeldSince s t) (hm : m.raisesNoFlag) :
    ∃ t', perform m t = .next t' ∧ t'.script = t.script ∧ HeldSince s t' := by
  rcases hm with rfl | ⟨n, rfl⟩ | ⟨w, rfl⟩ | ⟨ok, rfl⟩
  · exact ⟨t, h.coreMove_eq, rfl, h⟩
  · exact ⟨_, rfl, rfl, h.after_ticks n⟩
  · exact ⟨_, rfl, rfl, h.after_offer w⟩
  · exact ⟨{ t with periphOk := ok }, rfl, rfl, { h with }⟩

/-- A scripted step that raises no flag holds the core. -/
theorem HeldSince.step_holds (h : HeldSince s t) (hscript : t.script = m :: ms) (hm : m.raisesNoFlag) :
    ∃ t', step t = .next t' ∧ t'.script = ms ∧ HeldSince s t' := by
  have hmove : nextMove t = m := by simp only [nextMove, hscript]
  obtain ⟨t', ht', hkept, hheld⟩ := h.after_takeMove.perform_holds hm
  exact ⟨t', by rw [step, hmove, ht'], by simp [hkept, hscript], hheld⟩

/-- So do any number of such steps. -/
theorem HeldSince.run_holds {moves rest : List Move} (h : HeldSince s t) (hscript : t.script = moves ++ rest)
    (hmoves : ∀ m ∈ moves, m.raisesNoFlag) :
    ∃ t', Sys2Proof.core.run moves.length t = .next t' ∧ HeldSince s t' := by
  induction moves generalizing t with
  | nil => exact ⟨t, rfl, h⟩
  | cons m moves ih =>
    obtain ⟨hm, hlater⟩ := List.forall_mem_cons.1 hmoves
    obtain ⟨t₁, hstep, hscript₁, hheld⟩ := h.step_holds hscript hm
    obtain ⟨t', hrun, hend⟩ := ih hheld hscript₁ hlater
    exact ⟨t', (run_step hstep).trans hrun, hend⟩

end Sys2Proof.Machine

namespace Sys2Proof.Proofs

open Sys2Proof.Machine

/-- Settles O37: each move holds the core, and a held core polls with a WAIT at the head of SEQ. -/
theorem unexpiredTimerHoldsTheCore : Obligations.UnexpiredTimerHoldsTheCore := by
  intro moves rest s hmoves hscript hpolls hr hf
  have hstart : HeldSince s s := ⟨hpolls, hr, hf, rfl, rfl, rfl, [], (List.append_nil _).symm⟩
  obtain ⟨t, hrun, hheld⟩ := hstart.run_holds hscript hmoves
  obtain ⟨harmed, hbusy, hready⟩ := hheld.busy_not_ready
  obtain ⟨new, hnew⟩ := hheld.offered
  exact ⟨t, new, hrun, harmed, hbusy, hready, hheld.seq, hheld.port, hheld.trace, hnew⟩

end Sys2Proof.Proofs
end

section
/-! ### RS after each command (70_reset_and_hazards.md R251) -/

namespace Sys2Proof.Machine

open Sys2Proof.Config

variable (rate : TickRate) (v p : Byte)

/-- A pulse drives E alone. -/
theorem lineOf_clockOps_of_ne {k : Line} (hk : k ≠ .e) : lineOf k (promisedPort (clockOps rate) p) = lineOf k p := by
  simp [clockOps_port, hk]

/-- From any port, E high included, a byte transfer leaves the control lines but E as they were. -/
theorem lineOf_writeByteOps_of_ne {k : Line} (hk : k ≠ .e) :
    lineOf k (promisedPort (writeByteOps rate v) p) = lineOf k p := by
  simp [writeByteOps, nibbleOps, lineOf_clockOps_of_ne rate _ hk]

@[simp] theorem selectCmdOps_rs : lineOf .rs (promisedPort (selectCmdOps rate) p) = false := by
  simp [selectCmdOps]

@[simp] theorem selectDataOps_rs : lineOf .rs (promisedPort (selectDataOps rate) p) = true := by
  simp [selectDataOps]

/-- A byte to the command register leaves RS at 0: the transfer does not touch it. -/
theorem sendCmd_rs : lineOf .rs (promisedPort (selectCmdOps rate ++ writeByteOps rate v) p) = false := by
  rw [promisedPort_append, lineOf_writeByteOps_of_ne rate v _ (by simp), selectCmdOps_rs]

/-- A byte to the data register leaves RS at 1. -/
theorem sendData_rs : lineOf .rs (promisedPort (selectDataOps rate ++ writeByteOps rate v) p) = true := by
  rw [promisedPort_append, lineOf_writeByteOps_of_ne rate v _ (by simp), selectDataOps_rs]

/-- A display clear is a byte to the command register and a wait (R161). -/
theorem clearOps_rs : lineOf .rs (promisedPort (clearOps rate) p) = false := by
  rw [clearOps, promisedPort_append]
  exact sendCmd_rs rate 0x01#8 p

/-- INIT ends with a display clear and a mark (R160). -/
theorem initOps_rs : lineOf .rs (promisedPort (initOps rate) p) = false := by
  rw [initOps, promisedPort_append_mark, promisedPort_append]
  exact clearOps_rs rate _

/-- In Ready a command leaves RS where its micro-operations do, and its acceptance does not write the port. -/
theorem exec_in_ready_rs {i : Instr} {s : State} {level : Bool} (hi : i.isPayload = false) (hm : s.mode = .cmd)
    (hf : s.failed = false) (hready : s.initDone = true)
    (hrs : lineOf .rs (promisedPort (expand s.ticksPerUs i) s.port) = level) :
    ∃ t, exec i s = .next t ∧ t.port = s.port ∧ lineOf .rs (promisedPort t.seq t.port) = level := by
  by_cases hstr : i = .putstr
  · subst hstr
    exact ⟨_, exec_putstr_in_ready hm hf hready, rfl, hrs⟩
  · exact ⟨_, exec_performed hi hstr hm hf (.inr hready), rfl, hrs⟩

end Sys2Proof.Machine

namespace Sys2Proof.Proofs

open Sys2Proof.Machine

/-- Settles O33: in Ready each command passes its checks, and RS is the register it selected last, since a byte
transfer leaves RS as it was. -/
theorem registerSelectAfterEachCommand : Obligations.RegisterSelectAfterEachCommand := by
  intro s i hm hf hready
  constructor
  · rintro (rfl | rfl | ⟨line, col, rfl⟩ | ⟨b, rfl⟩ | rfl)
    · exact exec_in_ready_rs rfl hm hf hready (initOps_rs _ _)
    · exact exec_in_ready_rs rfl hm hf hready (clearOps_rs _ _)
    · exact exec_in_ready_rs rfl hm hf hready (sendCmd_rs _ _ _)
    · exact exec_in_ready_rs rfl hm hf hready (sendCmd_rs _ _ _)
    · exact exec_in_ready_rs rfl hm hf hready (selectCmdOps_rs _ _)
  · rintro (⟨b, rfl⟩ | rfl | rfl)
    · exact exec_in_ready_rs rfl hm hf hready (sendData_rs _ _ _)
    · exact exec_in_ready_rs rfl hm hf hready (selectDataOps_rs _ _)
    · exact exec_in_ready_rs rfl hm hf hready (selectDataOps_rs _ _)

end Sys2Proof.Proofs
end

section
/-! ### The nibble phase, step by step (70_reset_and_hazards.md R253; log entry 6) -/

namespace Sys2Proof.Machine

variable {s t : State}

/-- The phase of t is that of s, counted on by one nibble where E falls from the port of s to that of t. -/
def CountsLatches (s t : State) : Prop :=
  t.phase = if fallingEdge s.port t.port then s.phase.afterLatch else s.phase

/-- An unchanged port has no falling edge. -/
@[simp] theorem fallingEdge_self (v : Byte) : fallingEdge v v = false := by simp [fallingEdge]

/-- With port and phase unchanged there is nothing to count. -/
theorem CountsLatches.of_unchanged (hport : t.port = s.port) (hphase : t.phase = s.phase) : CountsLatches s t := by
  simp [CountsLatches, hport, hphase]

/-- Accepting a word does not write the port: SEQ does that later (44_protocol_ops.md R170). -/
theorem acceptWord_keeps_port {w : Word} (h : acceptWord w s = .next t) : t.port = s.port := by
  cases hd : decode s.mode w with
  | instr i =>
    rw [acceptWord_instr hd] at h
    exact (congrArg State.port (Proofs.acceptanceFrame i s t h) :)
  | illegal r =>
    rw [acceptWord_illegal hd] at h
    cases h
    rfl

/-- Every micro-operation counts the latches but a mark: MARK(0) forgets the phase and MARK(1) sets it (R160, R253). -/
theorem microStep_phase {op : MicroOp} (h : microStep op s = .next t) :
    CountsLatches s t ∨ t.phase = .unknown ∨ op = .mark true := by
  rcases microStep_next h with
    ⟨l, -, -, -, rfl⟩ | ⟨l, -, -, rfl⟩ | ⟨n, -, -, rfl⟩ | ⟨d, -, -, rfl⟩ | ⟨b, rfl, rfl⟩
  · exact .inl rfl
  · exact .inl rfl
  · exact .inl rfl
  · rcases waitStep_cases d s with ⟨-, hw⟩ | ⟨-, -, hw⟩ | ⟨-, -, hw⟩ <;> rw [hw] <;>
      exact .inl (.of_unchanged rfl rfl)
  · cases b with
    | false => exact .inr (.inl rfl)
    | true => exact .inr (.inr rfl)

/-- The core's move counts the latches, forgets the phase, or performs a MARK(1) at the head of SEQ. -/
theorem coreMove_phase (h : coreMove s = .next t) :
    CountsLatches s t ∨ t.phase = .unknown ∨ ∃ ops, s.seq = .mark true :: ops := by
  rcases coreMove_cases s with
    ⟨-, hc⟩ | ⟨-, op, ops, hs, hc⟩ | ⟨-, -, w, ws, -, hc⟩ | ⟨-, -, -, hc⟩ <;> rw [hc] at h
  · cases h
    exact .inl (.of_unchanged rfl rfl)
  · rcases microStep_phase h with hcounts | hunknown | rfl
    · exact .inl hcounts
    · exact .inr (.inl hunknown)
    · exact .inr (.inr ⟨ops, hs⟩)
  · have hport := acceptWord_keeps_port (s := { s with offered := ws }) h
    have hphase : t.phase = s.phase := (congrArg State.phase (acceptWord_keeps_agents h) :)
    exact .inl (.of_unchanged hport hphase)
  · cases h
    exact .inl (.of_unchanged rfl rfl)

/-- A step counts the latches, forgets the phase (a reset edge does), or performs a MARK(1) at the head of SEQ. -/
theorem step_phase (h : step s = .next t) :
    CountsLatches s t ∨ t.phase = .unknown ∨ ∃ ops, s.seq = .mark true :: ops := by
  rcases step_next h with
    ⟨-, hcore⟩ | ⟨n, -, rfl⟩ | ⟨-, -, rfl⟩ | ⟨w, -, rfl⟩ | ⟨-, rfl⟩ | ⟨ok, -, rfl⟩
  · exact coreMove_phase (s := takeMove s) hcore
  · exact .inl (.of_unchanged rfl rfl)
  · exact .inl (.of_unchanged rfl rfl)
  · exact .inl (.of_unchanged rfl rfl)
  · exact .inr (.inl rfl)
  · exact .inl (.of_unchanged rfl rfl)

/-- MARK(1) comes to the head of SEQ only where INIT has made the phase unknown (R160). -/
theorem Inv.phase_of_mark_true_head {ops : List MicroOp} (h : Inv s) (hs : s.seq = .mark true :: ops) :
    s.phase = .unknown := by
  rw [h.phaseKnown]
  rcases h.initUnready (by simp [hs]) with hinit | hdone
  · cases expand_init_head (hinit.symm.trans hs)
  · exact hdone

end Sys2Proof.Machine

namespace Sys2Proof.Proofs

open Sys2Proof.Machine

/-- Settles O55: a step either counts the latches or has an unknown phase before it (MARK(1)) or after it (MARK(0), a
reset edge). -/
theorem nibblePhaseCountsFallingEdges : Obligations.NibblePhaseCountsFallingEdges := by
  intro s t hinv hstep hbefore hafter
  have hcounts : CountsLatches s t := by
    rcases step_phase hstep with hcounts | hunknown | ⟨ops, hs⟩
    · exact hcounts
    · exact absurd hunknown hafter
    · exact absurd (hinv.phase_of_mark_true_head hs) hbefore
  exact ⟨fun hfalls => hcounts.trans (if_pos hfalls), fun hstays => hcounts.trans (if_neg (by simp [hstays]))⟩

end Sys2Proof.Proofs
end

section
/-! ### What the core may not do, and the reset edge (70_reset_and_hazards.md R240, R242, R266) -/

namespace Sys2Proof.Machine

/-- A failed core performs no micro-operation but a mark, which is not a drive of the port or timer (R266). -/
theorem microStep_refused_of_failed {op : MicroOp} {s : State} (hf : s.failed = true) (hop : ∀ b, op ≠ .mark b) :
    microStep op s = .refused .driveWhileFailed := by
  cases op with
  | mark b => exact absurd rfl (hop b)
  | set l => exact if_pos hf
  | clr l => exact if_pos hf
  | nib n => exact if_pos hf
  | wait t => exact if_pos hf

/-- SET names RS and E only (20_memory.md R56). -/
theorem microStep_set_refused {l : Line} {s : State} (hf : s.failed = false) (hl : l.settable = false) :
    microStep (.set l) s = .refused .drivesForbiddenLine := by
  simp [microStep, hf, hl]

/-- A scripted reset edge is a step from every state. -/
theorem step_rst {s : State} (hm : nextMove s = .rst) : step s = .next (resetEdge (takeMove s)) := by
  rw [step, hm]
  rfl

end Sys2Proof.Machine

namespace Sys2Proof.Proofs

open Sys2Proof.Machine

/-- Settles O44: the core's move is the head of SEQ, which is refused by FAILED or by its line; the expiry of a
stopped timer is the timer's own move. -/
theorem forbiddenDrivesAreRefused : Obligations.ForbiddenDrivesAreRefused := by
  refine ⟨?failed, ?line, ?expiry⟩
  case failed =>
    intro s op ops hm hr hf hs hop
    rw [step_microOp hm hr hs]
    exact microStep_refused_of_failed (s := takeMove s) hf hop
  case line =>
    intro s l ops hm hr hf hs hl
    have hsettable : l.settable = false := by rcases hl with rfl | rfl <;> rfl
    rw [step_microOp hm hr hs]
    exact microStep_set_refused (s := takeMove s) hf hsettable
  case expiry =>
    intro s hm hrun
    rw [step, hm]
    exact if_neg (by simp [hrun])

/-- Settles O45: the reset edge is total, and writes every field named here but the timer and the host's words. -/
theorem resetEdgeAbandonsTheCommand : Obligations.ResetEdgeAbandonsTheCommand := by
  intro s hm
  exact ⟨resetEdge (takeMove s), step_rst hm, rfl, rfl, rfl, rfl, rfl, rfl, rfl, rfl, rfl, rfl, rfl, rfl, rfl, rfl⟩

end Sys2Proof.Proofs
end
